-- ==== Sys2Proof/Word.lean ====
section
/-!
DEFINITION. The value types of the machine: bytes, instruction words, the 12-bit address field and register
indexes (spec/00_scope.md R3, section 5; spec/30_encoding.md R61). Every value is an unsigned integer of a stated width.
-/

namespace Sys2Proof

/-- One memory byte or one general register: 8 bits, unsigned (R3, R10). -/
abbrev Byte := BitVec 8

/-- An instruction word, `PC`, `I` or a return address: 16 bits (R3, R12, R13, R14). -/
abbrev Word := BitVec 16

/-- The address field `nnn` of an instruction: 12 bits (R61). -/
abbrev Addr := BitVec 12

/-- The index of a general register, the fields `x` and `y` (R10, R61). -/
abbrev Reg := Fin 16

/-- The index of a key (R22). -/
abbrev Key := Fin 16

/-- `VF`, register 15, which is also the flag register (R11). -/
abbrev VF : Reg := 15

end Sys2Proof
end

