-- ==== Sys2Proof/Syntax.lean ====
section
/-!
DEFINITION. The 35 instructions, one constructor per row of spec/opcode_table.json, in the table's order
(spec/30_encoding.md section 4). Each constructor carries the fields its format names (R61, R62), decoded; `y` of the two shifts
is carried although execution ignores it (R75).
-/

namespace Sys2Proof

inductive Instr where
  /-- 0nnn `SYS addr` (R195) -/
  | sysAddr (nnn : Addr)
  /-- 00E0 `CLS` (R178) -/
  | cls
  /-- 00EE `RET` (R113) -/
  | ret
  /-- 1nnn `JP addr` (R110) -/
  | jpAddr (nnn : Addr)
  /-- 2nnn `CALL addr` (R112) -/
  | callAddr (nnn : Addr)
  /-- 3xkk `SE Vx, byte` (R120) -/
  | seByte (x : Reg) (kk : Byte)
  /-- 4xkk `SNE Vx, byte` (R121) -/
  | sneByte (x : Reg) (kk : Byte)
  /-- 5xy0 `SE Vx, Vy` (R122) -/
  | seReg (x y : Reg)
  /-- 6xkk `LD Vx, byte` (R130) -/
  | ldByte (x : Reg) (kk : Byte)
  /-- 7xkk `ADD Vx, byte` (R151) -/
  | addByte (x : Reg) (kk : Byte)
  /-- 8xy0 `LD Vx, Vy` (R131) -/
  | ldReg (x y : Reg)
  /-- 8xy1 `OR Vx, Vy` (R154) -/
  | orReg (x y : Reg)
  /-- 8xy2 `AND Vx, Vy` (R155) -/
  | andReg (x y : Reg)
  /-- 8xy3 `XOR Vx, Vy` (R156) -/
  | xorReg (x y : Reg)
  /-- 8xy4 `ADD Vx, Vy` (R152) -/
  | addReg (x y : Reg)
  /-- 8xy5 `SUB Vx, Vy` (R157) -/
  | subReg (x y : Reg)
  /-- 8xy6 `SHR Vx` (R158); `y` is ignored by execution -/
  | shr (x y : Reg)
  /-- 8xy7 `SUBN Vx, Vy` (R159) -/
  | subnReg (x y : Reg)
  /-- 8xyE `SHL Vx` (R160); `y` is ignored by execution -/
  | shl (x y : Reg)
  /-- 9xy0 `SNE Vx, Vy` (R123) -/
  | sneReg (x y : Reg)
  /-- Annn `LD I, addr` (R132) -/
  | ldI (nnn : Addr)
  /-- Bnnn `JP V0, addr` (R111) -/
  | jpV0 (nnn : Addr)
  /-- Cxkk `RND Vx, byte` (R170) -/
  | rnd (x : Reg) (kk : Byte)
  /-- Dxyn `DRW Vx, Vy, nibble` (R175); `n` is a count of rows -/
  | drw (x y : Reg) (n : Fin 16)
  /-- Ex9E `SKP Vx` (R190) -/
  | skp (x : Reg)
  /-- ExA1 `SKNP Vx` (R191) -/
  | sknp (x : Reg)
  /-- Fx07 `LD Vx, DT` (R133) -/
  | ldVxDT (x : Reg)
  /-- Fx0A `LD Vx, K` (R134) -/
  | ldVxK (x : Reg)
  /-- Fx15 `LD DT, Vx` (R135) -/
  | ldDTVx (x : Reg)
  /-- Fx18 `LD ST, Vx` (R136) -/
  | ldSTVx (x : Reg)
  /-- Fx1E `ADD I, Vx` (R153) -/
  | addI (x : Reg)
  /-- Fx29 `LD F, Vx` (R137) -/
  | ldF (x : Reg)
  /-- Fx33 `LD B, Vx` (R138) -/
  | ldB (x : Reg)
  /-- Fx55 `LD [I], Vx` (R139) -/
  | storeRegs (x : Reg)
  /-- Fx65 `LD Vx, [I]` (R140) -/
  | loadRegs (x : Reg)
deriving DecidableEq, Repr

end Sys2Proof
end

