-- ==== Sys2Proof/WellFormed.lean ====
section
/-!
DEFINITION. Which terms of `Instr` are instructions. Every field is of the width the encoding gives it, so the
one check left is that of `SYS`: the words 0x00E0 and 0x00EE are `CLS` and `RET`, tested first, and no `SYS` (R65).
-/

namespace Sys2Proof

/-- The address field is not one of the two that an exact-match instruction takes (R65). -/
def Addr.isSys (nnn : Addr) : Bool := nnn != 0x0E0 && nnn != 0x0EE

/-- Well-formedness of an instruction: `SYS` excludes the words of `CLS` and `RET`; every other term is an instruction. -/
def Instr.wellFormed : Instr → Bool
  | .sysAddr nnn => Addr.isSys nnn
  | .cls | .ret | .jpAddr _ | .callAddr _ | .seByte _ _ | .sneByte _ _ | .seReg _ _ | .ldByte _ _ | .addByte _ _
  | .ldReg _ _ | .orReg _ _ | .andReg _ _ | .xorReg _ _ | .addReg _ _ | .subReg _ _ | .shr _ _ | .subnReg _ _
  | .shl _ _ | .sneReg _ _ | .ldI _ | .jpV0 _ | .rnd _ _ | .drw _ _ _ | .skp _ | .sknp _ | .ldVxDT _ | .ldVxK _
  | .ldDTVx _ | .ldSTVx _ | .addI _ | .ldF _ | .ldB _ | .storeRegs _ | .loadRegs _ => true

end Sys2Proof
end

