-- ==== Sys2Proof/Decode.lean ====
section
/-!
DEFINITION. The opcode decoder (spec/30_encoding.md R60 to R76): fields of a word, the pure total function from a word
to an (Operation, OperandPattern) pair, the 35 pairs that are instructions, decoding of bytes; then the encoder, written from the
same formats (R62), and the assembler notation (R80). The bit patterns are the spec's D3 (from general knowledge, not in its source).
-/

namespace Sys2Proof

/-- The decoder's tags, the fixed vocabulary of R63. -/
inductive Operation where
  | SYS | CLS | RET | JP | CALL | SE | SNE | LD | ADD | OR | AND | XOR | SUB | SHR | SUBN | SHL | RND | DRW | SKP | SKNP
  | UNDEFINED
deriving DecidableEq, Repr

/-- The seventeen operand patterns of R63 (the spec's D6). -/
inductive OperandPattern where
  | none
  | addr (nnn : Addr)
  | v0Addr (nnn : Addr)
  | iAddr (nnn : Addr)
  | regByte (x : Reg) (kk : Byte)
  | regReg (x y : Reg)
  | regRegNib (x y : Reg) (n : Fin 16)
  | reg (x : Reg)
  | regDT (x : Reg)
  | regKey (x : Reg)
  | dtReg (x : Reg)
  | stReg (x : Reg)
  | iReg (x : Reg)
  | fontReg (x : Reg)
  | bcdReg (x : Reg)
  | memReg (x : Reg)
  | regMem (x : Reg)
deriving DecidableEq, Repr

/-- Why bytes are not an instruction. -/
inductive DecodeReject where
  /-- fewer than the two bytes of an instruction word (R60) -/
  | truncated
  /-- the word decodes to `(UNDEFINED, None)` (R73) -/
  | undefined
  /-- an operation with a pattern it does not define (R76, R197); no word decodes to one -/
  | unpaired
deriving DecidableEq, Repr

/-! ### Fields of a word (R61) -/

/-- `fam`, the top nibble. -/
def fieldFam (w : Word) : BitVec 4 := w.extractLsb' 12 4

/-- `x`, bits 11 to 8. -/
def fieldX (w : Word) : Reg := (w.extractLsb' 8 4).toFin

/-- `y`, bits 7 to 4. -/
def fieldY (w : Word) : Reg := (w.extractLsb' 4 4).toFin

/-- `n`, bits 3 to 0. -/
def fieldN (w : Word) : Fin 16 := (w.extractLsb' 0 4).toFin

/-- `kk`, bits 7 to 0. -/
def fieldKK (w : Word) : Byte := w.extractLsb' 0 8

/-- `nnn`, bits 11 to 0. -/
def fieldNNN (w : Word) : Addr := w.extractLsb' 0 12

/-! ### The decode function (R64) -/

/-- Family 0x8: the low nibble selects (R69). -/
def decodeFamily8 (w : Word) : Operation × OperandPattern :=
  match (fieldN w).val with
  | 0x0 => (.LD, .regReg (fieldX w) (fieldY w))
  | 0x1 => (.OR, .regReg (fieldX w) (fieldY w))
  | 0x2 => (.AND, .regReg (fieldX w) (fieldY w))
  | 0x3 => (.XOR, .regReg (fieldX w) (fieldY w))
  | 0x4 => (.ADD, .regReg (fieldX w) (fieldY w))
  | 0x5 => (.SUB, .regReg (fieldX w) (fieldY w))
  | 0x6 => (.SHR, .regReg (fieldX w) (fieldY w))
  | 0x7 => (.SUBN, .regReg (fieldX w) (fieldY w))
  | 0xE => (.SHL, .regReg (fieldX w) (fieldY w))
  | _ => (.UNDEFINED, .none)

/-- Family 0xE: the low byte selects (R71). -/
def decodeFamilyE (w : Word) : Operation × OperandPattern :=
  match (fieldKK w).toNat with
  | 0x9E => (.SKP, .reg (fieldX w))
  | 0xA1 => (.SKNP, .reg (fieldX w))
  | _ => (.UNDEFINED, .none)

/-- Family 0xF: the low byte selects (R72). -/
def decodeFamilyF (w : Word) : Operation × OperandPattern :=
  match (fieldKK w).toNat with
  | 0x07 => (.LD, .regDT (fieldX w))
  | 0x0A => (.LD, .regKey (fieldX w))
  | 0x15 => (.LD, .dtReg (fieldX w))
  | 0x18 => (.LD, .stReg (fieldX w))
  | 0x1E => (.ADD, .iReg (fieldX w))
  | 0x29 => (.LD, .fontReg (fieldX w))
  | 0x33 => (.LD, .bcdReg (fieldX w))
  | 0x55 => (.LD, .memReg (fieldX w))
  | 0x65 => (.LD, .regMem (fieldX w))
  | _ => (.UNDEFINED, .none)

/-- The decoder of R64: pure and total; the two exact matches first, then the top nibble. The last arm is family 0xF, the one
value of a nibble that is left. -/
def decodePair (w : Word) : Operation × OperandPattern :=
  if w = 0x00E0 then (.CLS, .none)
  else if w = 0x00EE then (.RET, .none)
  else match (fieldFam w).toNat with
  | 0x0 => (.SYS, .addr (fieldNNN w))
  | 0x1 => (.JP, .addr (fieldNNN w))
  | 0x2 => (.CALL, .addr (fieldNNN w))
  | 0x3 => (.SE, .regByte (fieldX w) (fieldKK w))
  | 0x4 => (.SNE, .regByte (fieldX w) (fieldKK w))
  | 0x5 => if fieldN w = 0 then (.SE, .regReg (fieldX w) (fieldY w)) else (.UNDEFINED, .none)
  | 0x6 => (.LD, .regByte (fieldX w) (fieldKK w))
  | 0x7 => (.ADD, .regByte (fieldX w) (fieldKK w))
  | 0x8 => decodeFamily8 w
  | 0x9 => if fieldN w = 0 then (.SNE, .regReg (fieldX w) (fieldY w)) else (.UNDEFINED, .none)
  | 0xA => (.LD, .iAddr (fieldNNN w))
  | 0xB => (.JP, .v0Addr (fieldNNN w))
  | 0xC => (.RND, .regByte (fieldX w) (fieldKK w))
  | 0xD => (.DRW, .regRegNib (fieldX w) (fieldY w) (fieldN w))
  | 0xE => decodeFamilyE w
  | _ => decodeFamilyF w

/-! ### The 35 pairs with an execution rule (R76) -/

/-- The instruction a pair stands for: the 35 pairs of the opcode map; `(UNDEFINED, None)` and every other pair is rejected, each
under its own name (R76, R197). -/
def Instr.ofPair : Operation → OperandPattern → Except DecodeReject Instr
  | .SYS, .addr nnn => .ok (.sysAddr nnn)
  | .CLS, .none => .ok .cls
  | .RET, .none => .ok .ret
  | .JP, .addr nnn => .ok (.jpAddr nnn)
  | .CALL, .addr nnn => .ok (.callAddr nnn)
  | .SE, .regByte x kk => .ok (.seByte x kk)
  | .SNE, .regByte x kk => .ok (.sneByte x kk)
  | .SE, .regReg x y => .ok (.seReg x y)
  | .LD, .regByte x kk => .ok (.ldByte x kk)
  | .ADD, .regByte x kk => .ok (.addByte x kk)
  | .LD, .regReg x y => .ok (.ldReg x y)
  | .OR, .regReg x y => .ok (.orReg x y)
  | .AND, .regReg x y => .ok (.andReg x y)
  | .XOR, .regReg x y => .ok (.xorReg x y)
  | .ADD, .regReg x y => .ok (.addReg x y)
  | .SUB, .regReg x y => .ok (.subReg x y)
  | .SHR, .regReg x y => .ok (.shr x y)
  | .SUBN, .regReg x y => .ok (.subnReg x y)
  | .SHL, .regReg x y => .ok (.shl x y)
  | .SNE, .regReg x y => .ok (.sneReg x y)
  | .LD, .iAddr nnn => .ok (.ldI nnn)
  | .JP, .v0Addr nnn => .ok (.jpV0 nnn)
  | .RND, .regByte x kk => .ok (.rnd x kk)
  | .DRW, .regRegNib x y n => .ok (.drw x y n)
  | .SKP, .reg x => .ok (.skp x)
  | .SKNP, .reg x => .ok (.sknp x)
  | .LD, .regDT x => .ok (.ldVxDT x)
  | .LD, .regKey x => .ok (.ldVxK x)
  | .LD, .dtReg x => .ok (.ldDTVx x)
  | .LD, .stReg x => .ok (.ldSTVx x)
  | .ADD, .iReg x => .ok (.addI x)
  | .LD, .fontReg x => .ok (.ldF x)
  | .LD, .bcdReg x => .ok (.ldB x)
  | .LD, .memReg x => .ok (.storeRegs x)
  | .LD, .regMem x => .ok (.loadRegs x)
  | .UNDEFINED, .none => .error .undefined
  | _, _ => .error .unpaired

/-- The pair of an instruction, the seventh column of the opcode map (30_encoding.md section 4). -/
def Instr.pair : Instr → Operation × OperandPattern
  | .sysAddr nnn => (.SYS, .addr nnn)
  | .cls => (.CLS, .none)
  | .ret => (.RET, .none)
  | .jpAddr nnn => (.JP, .addr nnn)
  | .callAddr nnn => (.CALL, .addr nnn)
  | .seByte x kk => (.SE, .regByte x kk)
  | .sneByte x kk => (.SNE, .regByte x kk)
  | .seReg x y => (.SE, .regReg x y)
  | .ldByte x kk => (.LD, .regByte x kk)
  | .addByte x kk => (.ADD, .regByte x kk)
  | .ldReg x y => (.LD, .regReg x y)
  | .orReg x y => (.OR, .regReg x y)
  | .andReg x y => (.AND, .regReg x y)
  | .xorReg x y => (.XOR, .regReg x y)
  | .addReg x y => (.ADD, .regReg x y)
  | .subReg x y => (.SUB, .regReg x y)
  | .shr x y => (.SHR, .regReg x y)
  | .subnReg x y => (.SUBN, .regReg x y)
  | .shl x y => (.SHL, .regReg x y)
  | .sneReg x y => (.SNE, .regReg x y)
  | .ldI nnn => (.LD, .iAddr nnn)
  | .jpV0 nnn => (.JP, .v0Addr nnn)
  | .rnd x kk => (.RND, .regByte x kk)
  | .drw x y n => (.DRW, .regRegNib x y n)
  | .skp x => (.SKP, .reg x)
  | .sknp x => (.SKNP, .reg x)
  | .ldVxDT x => (.LD, .regDT x)
  | .ldVxK x => (.LD, .regKey x)
  | .ldDTVx x => (.LD, .dtReg x)
  | .ldSTVx x => (.LD, .stReg x)
  | .addI x => (.ADD, .iReg x)
  | .ldF x => (.LD, .fontReg x)
  | .ldB x => (.LD, .bcdReg x)
  | .storeRegs x => (.LD, .memReg x)
  | .loadRegs x => (.LD, .regMem x)

/-- The instruction of a word, or the name of the reason there is none. -/
def decode (w : Word) : Except DecodeReject Instr :=
  Instr.ofPair (decodePair w).1 (decodePair w).2

/-- Two memory bytes as a word, the byte at the lower address the more significant (R46, R60). -/
def wordOfBytes (hi lo : Byte) : Word := hi ++ lo

/-- Decoding of any byte string: one instruction and the rest of the bytes, or a rejection by name (R60). -/
def decodeBytes : List Byte → Except DecodeReject (Instr × List Byte)
  | hi :: lo :: rest =>
    match decode (wordOfBytes hi lo) with
    | .ok i => .ok (i, rest)
    | .error r => .error r
  | _ => .error .truncated

/-! ### The encoder: the formats of R62 -/

/-- Format `ADDR`. -/
def formatAddr (fam : BitVec 4) (nnn : Addr) : Word := fam ++ nnn

/-- Format `XKK`; format `X` is the same with a fixed low byte. -/
def formatXKK (fam : BitVec 4) (x : Reg) (kk : Byte) : Word := fam ++ BitVec.ofFin (w := 4) x ++ kk

/-- Format `XYN`; format `XY` is the same with a fixed low nibble. -/
def formatXYN (fam : BitVec 4) (x y n : Fin 16) : Word :=
  fam ++ BitVec.ofFin (w := 4) x ++ BitVec.ofFin (w := 4) y ++ BitVec.ofFin (w := 4) n

/-- The word of an instruction: its row of the opcode map (30_encoding.md section 4). -/
def encode : Instr → Word
  | .sysAddr nnn => formatAddr 0x0 nnn
  | .cls => 0x00E0
  | .ret => 0x00EE
  | .jpAddr nnn => formatAddr 0x1 nnn
  | .callAddr nnn => formatAddr 0x2 nnn
  | .seByte x kk => formatXKK 0x3 x kk
  | .sneByte x kk => formatXKK 0x4 x kk
  | .seReg x y => formatXYN 0x5 x y 0x0
  | .ldByte x kk => formatXKK 0x6 x kk
  | .addByte x kk => formatXKK 0x7 x kk
  | .ldReg x y => formatXYN 0x8 x y 0x0
  | .orReg x y => formatXYN 0x8 x y 0x1
  | .andReg x y => formatXYN 0x8 x y 0x2
  | .xorReg x y => formatXYN 0x8 x y 0x3
  | .addReg x y => formatXYN 0x8 x y 0x4
  | .subReg x y => formatXYN 0x8 x y 0x5
  | .shr x y => formatXYN 0x8 x y 0x6
  | .subnReg x y => formatXYN 0x8 x y 0x7
  | .shl x y => formatXYN 0x8 x y 0xE
  | .sneReg x y => formatXYN 0x9 x y 0x0
  | .ldI nnn => formatAddr 0xA nnn
  | .jpV0 nnn => formatAddr 0xB nnn
  | .rnd x kk => formatXKK 0xC x kk
  | .drw x y n => formatXYN 0xD x y n
  | .skp x => formatXKK 0xE x 0x9E
  | .sknp x => formatXKK 0xE x 0xA1
  | .ldVxDT x => formatXKK 0xF x 0x07
  | .ldVxK x => formatXKK 0xF x 0x0A
  | .ldDTVx x => formatXKK 0xF x 0x15
  | .ldSTVx x => formatXKK 0xF x 0x18
  | .addI x => formatXKK 0xF x 0x1E
  | .ldF x => formatXKK 0xF x 0x29
  | .ldB x => formatXKK 0xF x 0x33
  | .storeRegs x => formatXKK 0xF x 0x55
  | .loadRegs x => formatXKK 0xF x 0x65

/-- The two bytes of a word in memory order, the more significant first (R46). -/
def bytesOfWord (w : Word) : List Byte := [w.extractLsb' 8 8, w.extractLsb' 0 8]

/-- The bytes of an instruction in memory order. -/
def encodeBytes (i : Instr) : List Byte := bytesOfWord (encode i)

/-- The word that the opcode table's numbering of bits gives: bit 0 is the least significant bit of the one 16-bit word, and
every bit above `nbits` is 0. -/
def tableWord (nbits w : Nat) : Word := BitVec.ofNat 16 (w % 2 ^ nbits)

/-- The instruction the decoder reads from the bytes of a word numbered as spec/opcode_table.json numbers it. -/
def decodeTableWord (nbits w : Nat) : Option Instr :=
  match decodeBytes (bytesOfWord (tableWord nbits w)) with
  | .ok (i, _) => some i
  | .error _ => none

/-! ### Assembler notation (R80; the notation is the spec's D27) -/

/-- The mnemonic of an operation: its tag (R80). -/
def Operation.mnemonic : Operation → String
  | .SYS => "SYS" | .CLS => "CLS" | .RET => "RET" | .JP => "JP" | .CALL => "CALL" | .SE => "SE" | .SNE => "SNE"
  | .LD => "LD" | .ADD => "ADD" | .OR => "OR" | .AND => "AND" | .XOR => "XOR" | .SUB => "SUB" | .SHR => "SHR"
  | .SUBN => "SUBN" | .SHL => "SHL" | .RND => "RND" | .DRW => "DRW" | .SKP => "SKP" | .SKNP => "SKNP"
  | .UNDEFINED => "UNDEFINED"

/-- One hexadecimal digit. -/
def hexDigit (d : Fin 16) : String :=
  ["0", "1", "2", "3", "4", "5", "6", "7", "8", "9", "A", "B", "C", "D", "E", "F"].getD d.val ""

/-- A register's name, `V0` to `VF`. -/
def regName (x : Reg) : String := "V" ++ hexDigit x

/-- A byte as a number of two hexadecimal digits. -/
def byteText (b : Byte) : String := "0x" ++ hexDigit (b.extractLsb' 4 4).toFin ++ hexDigit (b.extractLsb' 0 4).toFin

/-- An address as a number of three hexadecimal digits. -/
def addrText (a : Addr) : String :=
  "0x" ++ hexDigit (a.extractLsb' 8 4).toFin ++ hexDigit (a.extractLsb' 4 4).toFin ++ hexDigit (a.extractLsb' 0 4).toFin

/-- The operands in assembler notation, the third column of R63's table; `none` where there are none. -/
def OperandPattern.text : OperandPattern → Option String
  | .none => Option.none
  | .addr nnn => some (addrText nnn)
  | .v0Addr nnn => some ("V0, " ++ addrText nnn)
  | .iAddr nnn => some ("I, " ++ addrText nnn)
  | .regByte x kk => some (regName x ++ ", " ++ byteText kk)
  | .regReg x y => some (regName x ++ ", " ++ regName y)
  | .regRegNib x y n => some (regName x ++ ", " ++ regName y ++ ", 0x" ++ hexDigit n)
  | .reg x => some (regName x)
  | .regDT x => some (regName x ++ ", DT")
  | .regKey x => some (regName x ++ ", K")
  | .dtReg x => some ("DT, " ++ regName x)
  | .stReg x => some ("ST, " ++ regName x)
  | .iReg x => some ("I, " ++ regName x)
  | .fontReg x => some ("F, " ++ regName x)
  | .bcdReg x => some ("B, " ++ regName x)
  | .memReg x => some ("[I], " ++ regName x)
  | .regMem x => some (regName x ++ ", [I]")

/-- An instruction in assembler notation; the second operand of the shifts, which may be written, is. -/
def Instr.assembly (i : Instr) : String :=
  match i.pair.2.text with
  | none => i.pair.1.mnemonic
  | some operands => i.pair.1.mnemonic ++ " " ++ operands

end Sys2Proof
end

