-- ==== Sys2Proof/Config.lean ====
section
/-!
DEFINITION. The fixed sizes of the hardware (spec/00_scope.md R3) and the open parameters of R4 that are not given
a value: the draw of `RND`, `MEM_SNAPSHOT` and `PAUSE_WHEN_IDLE`. The fourth parameter of R4, `FONT`, is an argument of the load
port (Machine/Boot.lean).
-/

namespace Sys2Proof.Config

/-- `MEM_SIZE`: the addresses are 0x000 to 0xFFF (R3, R20). -/
abbrev memSize : Nat := 4096

/-- `FONT_BASE` (R3, R43). -/
abbrev fontBase : Nat := 0x050

/-- `PROG_BASE`, the load address of a program and the reset value of `PC` (R3, R13). -/
abbrev progBase : Nat := 0x200

/-- The longest program image that fits: 0x1000 - 0x200 bytes (R41). -/
abbrev maxImage : Nat := 3584

/-- The random byte of the n-th executed `RND` (R4, R170, D25): a free value, nothing is known of it (log entry 3). -/
opaque rndByte : Nat → Byte

/-- The open parameter `MEM_SNAPSHOT` (R4, R100): a free value (log entry 4). -/
opaque memSnapshot : Bool

/-- The open parameter `PAUSE_WHEN_IDLE` (R4, R97): a free value (log entry 5). -/
opaque pauseWhenIdle : Bool

end Sys2Proof.Config
end

