-- ==== Sys2Proof/Machine/State.lean ====
section
/-!
DEFINITION. The state of the core as plain data (spec/10_state.md), its value right after reset (R230), and the
reasons a step could stop. Four fields at the end are the model's own: what the host has delivered and not yet been consumed
(`keyInput`), the number of draws taken (`draws`) and the commands of the last cycle (`out`); they stand for the ports of R26.
-/

namespace Sys2Proof.Machine

/-- `MEM` as address and byte pairs in canonical form: addresses strictly rising, none above 0xFFF, no byte equal to what an
unlisted address reads as (`Memory.wf`, Machine/Ops.lean). -/
abbrev Memory := List Host.Cell

/-- `FB`: 32 rows of 64 one-bit cells. Cell `FB[y * 64 + x]` of R21 is bit `x` of row `y`. -/
abbrev FrameBuffer := Vector (BitVec 64) 32

/-- The four kinds of fault (R200). -/
inductive FaultKind where
  | decodeFailure
  | stackOverflow
  | stackUnderflow
  | memoryRange
deriving DecidableEq, Repr

/-- The record `FAULT` (R24): the kind, the word being executed (0x0000 if the fetch faulted) and its address. -/
structure FaultRecord where
  kind : FaultKind
  instr : Word
  addr : Word
deriving DecidableEq, Repr

/-- The key-wait latch `KW` (R23). -/
structure KeyWait where
  latched : Bool
  reg : Reg
deriving DecidableEq, Repr

/-- One pair `(k, pressed)` of the port `key_events` (R26). -/
structure KeyEvent where
  key : Key
  pressed : Bool
deriving DecidableEq, Repr

/-- The commands a cycle can emit (R101). -/
inductive Command where
  | sendClearDisplay
  | sendDraw
  | play
  | pause
  | sendPixels (fb : FrameBuffer)
  | memorySnapshot (mem : Memory)
deriving DecidableEq, Repr

/-- The whole state. -/
structure State where
  /-- the general registers `V[0]` to `V[15]` (R10, R11) -/
  v : Vector Byte 16
  /-- the index register `I` (R12) -/
  i : Word
  /-- the program counter `PC` (R13) -/
  pc : Word
  /-- the call stack `STACK` (R14) -/
  stack : Vector Word 16
  /-- the stack pointer `SP`, the number of return addresses held, 0 to 16 (R15) -/
  sp : Fin 17
  /-- the delay timer `DT` (R16) -/
  dt : Byte
  /-- the sound timer `ST` (R17) -/
  st : Byte
  /-- the memory `MEM` (R20) -/
  mem : Memory
  /-- the pixel buffer `FB` (R21) -/
  fb : FrameBuffer
  /-- the key matrix `KEY` (R22) -/
  key : Vector Bool 16
  /-- the key-wait latch `KW` (R23) -/
  kw : KeyWait
  /-- the fault latch `HALTED` (R24) -/
  halted : Bool
  /-- the fault record `FAULT`, of no meaning while `halted` is false (R24) -/
  fault : FaultRecord
  /-- model's own: the key events the host delivers before each coming cycle, the next cycle's first (R26, R90; log entry 2) -/
  keyInput : List (List KeyEvent)
  /-- model's own: how many draws `RND` has taken (R170; log entry 3) -/
  draws : Nat
  /-- model's own: the commands emitted by the last cycle, in order (R101; log entry 6) -/
  out : List Command
deriving DecidableEq, Repr

/-- Reasons for a step to stop with a fault of the model. There are none: each of the four faults of R200 is taken as R205
describes it, in a next state with `halted` set and `fault` written (safe: nothing further runs; log entry 1). -/
inductive Fault where
deriving DecidableEq, Repr

/-- Reasons to refuse an instruction. -/
inductive Refusal where
  /-- raised by an arm of `exec` whose instruction has no meaning yet; no arm raises it now (safe) -/
  | notModelled (mnemonic : String)
deriving DecidableEq, Repr

/-- The outcome of an instruction or a step of this machine. -/
abbrev Result := Host.Outcome State Fault Refusal

/-- The state right after reset (R230, table of 10_state.md section 10). `MEM` is all 0x00, so nothing is listed; the font and
the program are loaded afterwards through the load port (Machine/Boot.lean). `fault` is unspecified by the spec: the value here
is the model's (log entry 7), as are the values of the three fields of the model's own (log entries 2, 3, 6). -/
def State.reset : State where
  v := Vector.replicate 16 0
  i := 0
  pc := 0x0200
  stack := Vector.replicate 16 0
  sp := 0
  dt := 0
  st := 0
  mem := []
  fb := Vector.replicate 32 0
  key := Vector.replicate 16 false
  kw := { latched := false, reg := 0 }
  halted := false
  fault := { kind := .decodeFailure, instr := 0, addr := 0 }
  keyInput := []
  draws := 0
  out := []

end Sys2Proof.Machine
end

