-- ==== Sys2Proof/Machine/Ops.lean ====
section
/-!
DEFINITION. The named operations the meanings are written over: memory (spec/20_memory.md R45 to R48), registers,
the program counter, the stack, the pixel buffer, commands, and the taking of a fault (spec/60_exceptions.md R205).
-/

namespace Sys2Proof.Machine

/-! ### Memory -/

/-- What an address that is not listed reads as: memory is created zero-filled (R20, R41). -/
abbrev unlistedByte : Byte := 0

/-- `MEM[a]`. -/
def Memory.byteAt : Memory → Nat → Byte
  | [], _ => unlistedByte
  | (k, b) :: m, a => if k = a then b else Memory.byteAt m a

/-- The canonical form from an address on: addresses rise strictly, lie below 4096, and no listed byte is the unlisted one. -/
def Memory.risingFrom (lo : Nat) : Memory → Bool
  | [] => true
  | (k, b) :: m => decide (lo ≤ k) && decide (k < Config.memSize) && b != unlistedByte && Memory.risingFrom (k + 1) m

/-- The canonical form of memory: equal memories are equal lists. -/
def Memory.wf (m : Memory) : Bool := Memory.risingFrom 0 m

/-- A listing that begins with `a` holding `b`, or without `a` where `b` is what an unlisted address reads as. -/
def Memory.consByte (a : Nat) (b : Byte) (m : Memory) : Memory := if b = unlistedByte then m else (a, b) :: m

/-- `MEM[a] <- b`, keeping the canonical form. -/
def Memory.store : Memory → Nat → Byte → Memory
  | [], a, b => Memory.consByte a b []
  | (k, c) :: m, a, b =>
    if a < k then Memory.consByte a b ((k, c) :: m)
    else if a = k then Memory.consByte a b m
    else (k, c) :: Memory.store m a b

/-- Bytes stored at ascending addresses from `base` (R50). -/
def Memory.storeBlock : Memory → Nat → List Byte → Memory
  | m, _, [] => m
  | m, base, b :: bs => Memory.storeBlock (m.store base b) (base + 1) bs

/-- The `n` bytes at ascending addresses from `base` (R50). -/
def Memory.readBlock (m : Memory) (base : Nat) : Nat → List Byte
  | 0 => []
  | n + 1 => m.byteAt base :: Memory.readBlock m (base + 1) n

/-- `MemRead(addr, 1)`: none where it raises `MemoryRange` (R45, R48). -/
def memRead (m : Memory) (addr : Nat) : Option Byte := if addr ≤ 0xFFF then some (m.byteAt addr) else none

/-- `MemWrite(addr, 1, v)`: none where it raises `MemoryRange` (R47, R48). -/
def memWrite (m : Memory) (addr : Nat) (b : Byte) : Option Memory :=
  if addr ≤ 0xFFF then some (m.store addr b) else none

/-- No address of a block of `n` bytes at `base` lies above 0xFFF; an empty block touches none (R48). -/
def blockInRange (base n : Nat) : Bool := n == 0 || decide (base + n ≤ Config.memSize)

/-- The reads of a multi-byte instruction: all addresses are checked first (R48). -/
def memReadBlock (m : Memory) (base n : Nat) : Option (List Byte) :=
  if blockInRange base n then some (m.readBlock base n) else none

/-- The writes of a multi-byte instruction: all addresses are checked first, so there is no partial store (R48). -/
def memWriteBlock (m : Memory) (base : Nat) (bs : List Byte) : Option Memory :=
  if blockInRange base bs.length then some (m.storeBlock base bs) else none

def State.setMem (m : Memory) (s : State) : State := { s with mem := m }

/-! ### Registers -/

/-- Reading `V[x]`; no register is hard-wired (R10). -/
def State.getV (s : State) (x : Reg) : Byte := s.v[x]

/-- `V[x] <- b`. -/
def State.setV (x : Reg) (b : Byte) (s : State) : State := { s with v := s.v.set x b }

/-- Bytes written to the registers `r`, `r + 1`, and so on (the loop of R140). -/
def writeRegsFrom : Vector Byte 16 → Nat → List Byte → Vector Byte 16
  | v, _, [] => v
  | v, r, b :: bs => writeRegsFrom (v.setIfInBounds r b) (r + 1) bs

/-- `V[0]`, `V[1]`, and so on, from a list of bytes. -/
def State.setRegs (bs : List Byte) (s : State) : State := { s with v := writeRegsFrom s.v 0 bs }

/-- `V[0]` to `V[x]`, in order. -/
def State.regsUpTo (s : State) (x : Reg) : List Byte := s.v.toList.take (x.val + 1)

/-- `I <- a`. -/
def State.setI (a : Word) (s : State) : State := { s with i := a }

/-- `DT <- b` (R16). -/
def State.setDT (b : Byte) (s : State) : State := { s with dt := b }

/-- `ST <- b` (R17). -/
def State.setST (b : Byte) (s : State) : State := { s with st := b }

/-- The key-wait latch is set with `x` as its target (R134). -/
def State.waitForKey (x : Reg) (s : State) : State := { s with kw := { latched := true, reg := x } }

/-- One draw is consumed (R170). -/
def State.countDraw (s : State) : State := { s with draws := s.draws + 1 }

/-! ### Program counter and stack -/

/-- `PC <- a`. -/
def State.setPC (a : Word) (s : State) : State := { s with pc := a }

/-- The fetch's advance, `PC <- trunc_16(PC + 2)` (R94). -/
def State.advancePC (s : State) : State := { s with pc := s.pc + 2 }

/-- A skip adds 2 more to the advanced `PC` (R124). -/
def State.skipIf (c : Bool) (s : State) : State := { s with pc := if c then s.pc + 2 else s.pc }

/-- `STACK[SP] <- a; SP <- SP + 1`; none where 16 return addresses are held (R112). -/
def State.push (a : Word) (s : State) : Option State :=
  if h : s.sp.val < 16 then some { s with stack := s.stack.set s.sp.val a, sp := ⟨s.sp.val + 1, by omega⟩ } else none

/-- `SP <- SP - 1`, with the return address `STACK[SP]`; none where the stack is empty (R113). -/
def State.pop (s : State) : Option (Word × State) :=
  if s.sp.val = 0 then none
  else some (s.stack[s.sp.val - 1]'(by omega), { s with sp := ⟨s.sp.val - 1, by omega⟩ })

/-! ### Pixel buffer and commands -/

/-- A cell by its column and row. -/
abbrev Cell := Fin 64 × Fin 32

/-- Whether the pixel in a column and row is set (R21, R177). -/
def FrameBuffer.cell (fb : FrameBuffer) (c : Cell) : Bool := fb[c.2].getLsbD c.1.val

/-- `FB[k]`, with `k = y * 64 + x` (R21). -/
def FrameBuffer.at (fb : FrameBuffer) (k : Fin 2048) : Bool :=
  fb.cell (⟨k.val % 64, by omega⟩, ⟨k.val / 64, by omega⟩)

/-- `FB[k] <- not FB[k]` (R175). -/
def FrameBuffer.toggle (fb : FrameBuffer) (c : Cell) : FrameBuffer :=
  fb.set c.2 (fb[c.2] ^^^ BitVec.twoPow 64 c.1.val)

/-- All 2048 cells false (R178). -/
def FrameBuffer.clear : FrameBuffer := Vector.replicate 32 0

/-- Toggle cells one after the other; the flag tells whether one of them was set before its toggle (R175, R176). -/
def drawCells : List Cell → FrameBuffer → Bool → FrameBuffer × Bool
  | [], fb, hit => (fb, hit)
  | c :: cs, fb, hit => drawCells cs (fb.toggle c) (hit || fb.cell c)

def State.setFB (fb : FrameBuffer) (s : State) : State := { s with fb := fb }

/-- `emit`: a command leaves after those already emitted in the cycle (R101). -/
def State.emit (c : Command) (s : State) : State := { s with out := s.out ++ [c] }

/-! ### Faults -/

/-- The code of a fault kind (R200). -/
def FaultKind.code : FaultKind → Nat
  | .decodeFailure => 1
  | .stackOverflow => 2
  | .stackUnderflow => 3
  | .memoryRange => 4

/-- Taking a fault (R205, R102). The state given is the one after step 1 of the cycle, whose `PC` is the address of the faulting
instruction: it is kept whole, `HALTED` is set and `FAULT` records the kind, the word and that address. There is no return from
a fault (R207): only reset leaves the halted state. -/
def takeFault (kind : FaultKind) (w : Word) (s : State) : Result :=
  .next { s with halted := true, fault := { kind := kind, instr := w, addr := s.pc } }

/-- The same for a decoded instruction, whose word is its encoding. -/
def raise (kind : FaultKind) (i : Instr) (s : State) : Result := takeFault kind (encode i) s

end Sys2Proof.Machine
end

