-- ==== Sys2Proof/Machine/Cycle.lean ====
section
/-!
DEFINITION. Steps 1, 3, 4 and 5 of a cycle (spec/40_cycle.md): key events, delay timer, sound timer and audio,
publishing. Step 2 is Machine/Execute.lean.
-/

namespace Sys2Proof.Machine

/-- One key event: `KEY[k] <- pressed`, and a key-down ends a pending wait by writing its index to the target register (R91). -/
def applyKeyEvent (s : State) (e : KeyEvent) : State :=
  { s with
    key := s.key.set e.key e.pressed
    v := if s.kw.latched && e.pressed then s.v.set s.kw.reg (BitVec.ofNat 8 e.key.val) else s.v
    kw := if s.kw.latched && e.pressed then { s.kw with latched := false } else s.kw }

/-- Step 1: the events in the order delivered (R91). -/
def applyKeyEvents (events : List KeyEvent) (s : State) : State := events.foldl applyKeyEvent s

/-- A timer's tick: down by 1 unless it is 0 (R96, R97). -/
def tick (b : Byte) : Byte := if b = 0 then 0 else b - 1

/-- Step 3 (R96). -/
def tickDelay (s : State) : State := { s with dt := tick s.dt }

/-- The audio command of step 4, from `ST` before the tick (R97): `Play` if it is still not 0 after the tick, `Pause` if it just
reached 0, and for `ST = 0` a `Pause` if and only if `PAUSE_WHEN_IDLE`. -/
def audioCommand (st : Byte) : List Command :=
  if st = 0 then (if Config.pauseWhenIdle then [.pause] else [])
  else if tick st = 0 then [.pause] else [.play]

/-- Step 4 (R97). -/
def tickSound (s : State) : State := { s with st := tick s.st, out := s.out ++ audioCommand s.st }

/-- The commands of step 5: the pixels, then the memory if `MEM_SNAPSHOT` (R99, R100). -/
def snapshots (s : State) : List Command :=
  .sendPixels s.fb :: (if Config.memSnapshot then [.memorySnapshot s.mem] else [])

/-- Step 5 (R99, R100). -/
def publish (s : State) : State := { s with out := s.out ++ snapshots s }

/-- Steps 3, 4 and 5, which run in every cycle that does not fault (R98, R102). -/
def finishCycle (s : State) : State := publish (tickSound (tickDelay s))

end Sys2Proof.Machine
end

