-- ==== Sys2Proof/Machine/Flags.lean ====
section
/-!
DEFINITION. The values written to `VF` as a flag, each 0 or 1, and the order of result and flag
(spec/44_arithmetic.md R152, R157 to R161; spec/46_draw_cls.md R176). There is no other flag (spec/10_state.md R18).
-/

namespace Sys2Proof.Machine

/-- `b2i`: 1 if it holds, else 0 (00_scope.md section 5.3). -/
def b2i (c : Bool) : Byte := if c then 1 else 0

/-- The carry of `ADD Vx, Vy`: the true sum exceeds 255 (R152). -/
def carry (a b : Byte) : Bool := decide (a.toNat + b.toNat > 255)

/-- The no-borrow indicator of `SUB` and `SUBN`: minuend at least subtrahend (R157, R159). -/
def noBorrow (minuend subtrahend : Byte) : Bool := decide (minuend.toNat ≥ subtrahend.toNat)

/-- The bit that `SHR` shifts out, the old bit 0 (R158). -/
def shiftedOutRight (a : Byte) : Bool := a.getLsbD 0

/-- The bit that `SHL` shifts out, the old bit 7 (R160). -/
def shiftedOutLeft (a : Byte) : Bool := a.getLsbD 7

/-- `V[15] <- flag`. -/
def State.setFlag (flag : Bool) (s : State) : State := s.setV VF (b2i flag)

/-- The result to `V[x]` first, the flag to `VF` last, both computed from the operands as they were (R161, D7). -/
def State.setResult (x : Reg) (result : Byte) (flag : Bool) (s : State) : State := (s.setV x result).setFlag flag

end Sys2Proof.Machine
end

