-- ==== Sys2Proof/Machine/Operands.lean ====
section
/-!
DEFINITION. What the operand forms stand for: targets, index values, font addresses, digits, keys and the cells of a
sprite (spec/30_encoding.md R78 and the rule of each instruction).
-/

namespace Sys2Proof.Machine

/-- `nnn` zero-extended, as it is written to `PC` or `I` (R78). -/
def addrWord (nnn : Addr) : Word := nnn.zeroExtend 16

/-- The target of `JP V0, addr`: `nnn + V[0]` in 16 bits, not masked (R111, D9). -/
def v0Target (nnn : Addr) (v0 : Byte) : Word := nnn.zeroExtend 16 + v0.zeroExtend 16

/-- The result of `ADD I, Vx`, masked to 12 bits (R153). -/
def indexSum (i : Word) (b : Byte) : Word := (i + b.zeroExtend 16) &&& 0x0FFF

/-- The address of the glyph for the value of a register: 0x050 + 5 * V[x], for the whole byte (R137, D14). -/
def fontAddr (b : Byte) : Word := BitVec.ofNat 16 (Config.fontBase + 5 * b.toNat)

/-- The hundreds, tens and ones digits (R138). -/
def bcdDigits (b : Byte) : List Byte :=
  [BitVec.ofNat 8 (b.toNat / 100), BitVec.ofNat 8 (b.toNat / 10 % 10), BitVec.ofNat 8 (b.toNat % 10)]

/-- The key a register names: its low nibble (R192). -/
def keyIndex (b : Byte) : Key := ⟨b.toNat % 16, Nat.mod_lt _ (by decide)⟩

/-- Whether the key that a register names is held down, as `KEY` stands (R192). -/
def State.keyDown (s : State) (b : Byte) : Bool := s.key[keyIndex b]

/-- The address of the first byte of a data access: `I` as it is (R40, R56). -/
def State.dataAddr (s : State) : Nat := s.i.toNat

/-- The cell at a column and row, each reduced on its own (R175). -/
def wrapCell (px py : Nat) : Cell := (⟨px % 64, Nat.mod_lt _ (by decide)⟩, ⟨py % 32, Nat.mod_lt _ (by decide)⟩)

/-- The cells of one sprite row, left to right: bit `7 - c` is the pixel in column `c` (R175). -/
def rowCells (x0 y : Nat) (b : Byte) : List Cell :=
  ((List.range 8).filter fun c => b.getLsbD (7 - c)).map fun c => wrapCell (x0 + c) y

/-- The cells of a sprite, row by row downwards (R175, R177). -/
def spriteCells (x0 : Nat) : Nat → List Byte → List Cell
  | _, [] => []
  | y, b :: bs => rowCells x0 y b ++ spriteCells x0 (y + 1) bs

end Sys2Proof.Machine
end

