-- ==== Sys2Proof/Machine/Arith.lean ====
section
/-!
DEFINITION. Arithmetic and logic (spec/44_arithmetic.md). Register arithmetic wraps modulo 256 (R150).
-/

namespace Sys2Proof.Machine

/-- `ADD Vx, byte` (R151): no flag. -/
def execAddByte (x : Reg) (kk : Byte) (s : State) : Result := .next (s.advancePC.setV x (s.getV x + kk))

/-- `OR Vx, Vy` (R154): no flag. -/
def execOrReg (x y : Reg) (s : State) : Result := .next (s.advancePC.setV x (s.getV x ||| s.getV y))

/-- `AND Vx, Vy` (R155): no flag. -/
def execAndReg (x y : Reg) (s : State) : Result := .next (s.advancePC.setV x (s.getV x &&& s.getV y))

/-- `XOR Vx, Vy` (R156): no flag. -/
def execXorReg (x y : Reg) (s : State) : Result := .next (s.advancePC.setV x (s.getV x ^^^ s.getV y))

/-- `ADD Vx, Vy` (R152): `VF` is the carry. -/
def execAddReg (x y : Reg) (s : State) : Result :=
  .next (s.advancePC.setResult x (s.getV x + s.getV y) (carry (s.getV x) (s.getV y)))

/-- `SUB Vx, Vy` (R157): `VF` is 1 where `V[x] >= V[y]`. -/
def execSubReg (x y : Reg) (s : State) : Result :=
  .next (s.advancePC.setResult x (s.getV x - s.getV y) (noBorrow (s.getV x) (s.getV y)))

/-- `SHR Vx` (R158): in place; the operand `y` is ignored (R75). -/
def execShr (x _y : Reg) (s : State) : Result :=
  .next (s.advancePC.setResult x (s.getV x >>> 1) (shiftedOutRight (s.getV x)))

/-- `SUBN Vx, Vy` (R159): `V[y] - V[x]` to `V[x]`; `VF` is 1 where `V[y] >= V[x]`. -/
def execSubnReg (x y : Reg) (s : State) : Result :=
  .next (s.advancePC.setResult x (s.getV y - s.getV x) (noBorrow (s.getV y) (s.getV x)))

/-- `SHL Vx` (R160): in place; the operand `y` is ignored (R75). -/
def execShl (x _y : Reg) (s : State) : Result :=
  .next (s.advancePC.setResult x (s.getV x <<< 1) (shiftedOutLeft (s.getV x)))

/-- `ADD I, Vx` (R153): no flag. -/
def execAddI (x : Reg) (s : State) : Result := .next (s.advancePC.setI (indexSum s.i (s.getV x)))

end Sys2Proof.Machine
end

