-- ==== Sys2Proof/Machine/Display.lean ====
section
/-!
DEFINITION. `DRW Vx, Vy, nibble` and `CLS` (spec/46_draw_cls.md).
-/

namespace Sys2Proof.Machine

/-- The cells a `DRW` toggles, from its coordinates and its sprite rows (R175). -/
def drwCells (vx vy : Byte) (rows : List Byte) : List Cell := spriteCells (vx.toNat % 64) (vy.toNat % 32) rows

/-- `DRW Vx, Vy, n` (R175, R176): the addresses are checked before any effect, the coordinates are read before `VF` is written. -/
def execDrw (x y : Reg) (n : Fin 16) (s : State) : Result :=
  match memReadBlock s.mem s.dataAddr n.val with
  | none => raise .memoryRange (.drw x y n) s
  | some rows =>
    .next (((s.advancePC.setFB (drawCells (drwCells (s.getV x) (s.getV y) rows) s.fb false).1).setFlag
      (drawCells (drwCells (s.getV x) (s.getV y) rows) s.fb false).2).emit .sendDraw)

/-- `CLS` (R178): clears `FB` and emits `SendClearDisplay`. -/
def execCls (s : State) : Result := .next ((s.advancePC.setFB FrameBuffer.clear).emit .sendClearDisplay)

end Sys2Proof.Machine
end

