-- ==== Sys2Proof/Machine/Jump.lean ====
section
/-!
DEFINITION. `JP`, `JP V0`, `CALL`, `RET` (spec/41_jump_call_return.md). Here and in every family the state given to a
meaning is the one after step 1 of the cycle: its `PC` is the address of the instruction, and a meaning that completes advances
it first, as the fetch does (spec/40_cycle.md R94).
-/

namespace Sys2Proof.Machine

/-- `JP addr` (R110). -/
def execJpAddr (nnn : Addr) (s : State) : Result := .next (s.advancePC.setPC (addrWord nnn))

/-- `JP V0, addr` (R111). -/
def execJpV0 (nnn : Addr) (s : State) : Result := .next (s.advancePC.setPC (v0Target nnn (s.getV 0)))

/-- `CALL addr` (R112): pushes the advanced `PC`; `StackOverflow` at 16 entries. -/
def execCallAddr (nnn : Addr) (s : State) : Result :=
  match s.advancePC.push s.advancePC.pc with
  | none => raise .stackOverflow (.callAddr nnn) s
  | some t => .next (t.setPC (addrWord nnn))

/-- `RET` (R113): `StackUnderflow` on an empty stack. -/
def execRet (s : State) : Result :=
  match s.advancePC.pop with
  | none => raise .stackUnderflow .ret s
  | some (a, t) => .next (t.setPC a)

end Sys2Proof.Machine
end

