-- ==== Sys2Proof/Machine/Load.lean ====
section
/-!
DEFINITION. The load family `LD` (spec/43_load.md).
-/

namespace Sys2Proof.Machine

/-- `LD Vx, byte` (R130). -/
def execLdByte (x : Reg) (kk : Byte) (s : State) : Result := .next (s.advancePC.setV x kk)

/-- `LD Vx, Vy` (R131). -/
def execLdReg (x y : Reg) (s : State) : Result := .next (s.advancePC.setV x (s.getV y))

/-- `LD I, addr` (R132). -/
def execLdI (nnn : Addr) (s : State) : Result := .next (s.advancePC.setI (addrWord nnn))

/-- `LD Vx, DT` (R133): reads the timer before the tick of its own cycle. -/
def execLdVxDT (x : Reg) (s : State) : Result := .next (s.advancePC.setV x s.dt)

/-- `LD Vx, K` (R134): sets the key-wait latch and nothing else; `V[x]` is written when the wait ends (R91). -/
def execLdVxK (x : Reg) (s : State) : Result := .next (s.advancePC.waitForKey x)

/-- `LD DT, Vx` (R135). -/
def execLdDTVx (x : Reg) (s : State) : Result := .next (s.advancePC.setDT (s.getV x))

/-- `LD ST, Vx` (R136). -/
def execLdSTVx (x : Reg) (s : State) : Result := .next (s.advancePC.setST (s.getV x))

/-- `LD F, Vx` (R137). -/
def execLdF (x : Reg) (s : State) : Result := .next (s.advancePC.setI (fontAddr (s.getV x)))

/-- `LD B, Vx` (R138): three digits at `I`, `I + 1`, `I + 2`. -/
def execLdB (x : Reg) (s : State) : Result :=
  match memWriteBlock s.mem s.dataAddr (bcdDigits (s.getV x)) with
  | none => raise .memoryRange (.ldB x) s
  | some m => .next (s.advancePC.setMem m)

/-- `LD [I], Vx` (R139): `V[0]` to `V[x]` at `I` and up; `I` is unchanged. -/
def execStoreRegs (x : Reg) (s : State) : Result :=
  match memWriteBlock s.mem s.dataAddr (s.regsUpTo x) with
  | none => raise .memoryRange (.storeRegs x) s
  | some m => .next (s.advancePC.setMem m)

/-- `LD Vx, [I]` (R140): `V[0]` to `V[x]` from `I` and up; `I` is unchanged. -/
def execLoadRegs (x : Reg) (s : State) : Result :=
  match memReadBlock s.mem s.dataAddr (x.val + 1) with
  | none => raise .memoryRange (.loadRegs x) s
  | some bs => .next (s.advancePC.setRegs bs)

end Sys2Proof.Machine
end

