-- ==== Sys2Proof/Machine/Random.lean ====
section
/-!
DEFINITION. `RND Vx, byte` (spec/45_rnd.md). The draw is a free value, fresh for every executed `RND` (log entry 3).
-/

namespace Sys2Proof.Machine

/-- `RND Vx, byte` (R170): `V[x] <- rnd AND kk`; one draw is consumed. -/
def execRnd (x : Reg) (kk : Byte) (s : State) : Result :=
  .next (s.advancePC.setV x (Config.rndByte s.draws &&& kk)).countDraw

end Sys2Proof.Machine
end

