-- ==== Sys2Proof/Machine/Skip.lean ====
section
/-!
DEFINITION. The skips: `SE`, `SNE` (spec/42_skip.md) and the key-gated `SKP`, `SKNP` (spec/47_keys.md).
-/

namespace Sys2Proof.Machine

/-- `SE Vx, byte` (R120). -/
def execSeByte (x : Reg) (kk : Byte) (s : State) : Result := .next (s.advancePC.skipIf (s.getV x == kk))

/-- `SNE Vx, byte` (R121). -/
def execSneByte (x : Reg) (kk : Byte) (s : State) : Result := .next (s.advancePC.skipIf (s.getV x != kk))

/-- `SE Vx, Vy` (R122). -/
def execSeReg (x y : Reg) (s : State) : Result := .next (s.advancePC.skipIf (s.getV x == s.getV y))

/-- `SNE Vx, Vy` (R123). -/
def execSneReg (x y : Reg) (s : State) : Result := .next (s.advancePC.skipIf (s.getV x != s.getV y))

/-- `SKP Vx` (R190). -/
def execSkp (x : Reg) (s : State) : Result := .next (s.advancePC.skipIf (s.keyDown (s.getV x)))

/-- `SKNP Vx` (R191). -/
def execSknp (x : Reg) (s : State) : Result := .next (s.advancePC.skipIf (!s.keyDown (s.getV x)))

end Sys2Proof.Machine
end

