-- ==== Sys2Proof/Machine/Sys.lean ====
section
/-!
DEFINITION. `SYS addr` (spec/48_sys_undefined.md R195). Words that decode to `UNDEFINED` and pairs with no execution
rule are in Machine/Execute.lean, since they are no instruction of the table.
-/

namespace Sys2Proof.Machine

/-- `SYS addr` (R195): raises `DecodeFailure`, always. -/
def execSysAddr (nnn : Addr) (s : State) : Result := raise .decodeFailure (.sysAddr nnn) s

end Sys2Proof.Machine
end

