-- ==== Sys2Proof/Machine/Execute.lean ====
section
/-!
DEFINITION. Step 2 of a cycle and the whole cycle (spec/40_cycle.md R90 to R104): fetch, decode, execute; the
`UNDEFINED` words and the pairs with no execution rule (spec/48_sys_undefined.md R196, R197).
-/

namespace Sys2Proof.Machine

/-- Instruction fetch, `MemRead(PC, 2)`: big-endian, both addresses checked, no wrap from 0xFFF (R46, R93). -/
def fetchWord (s : State) : Option Word :=
  match memRead s.mem s.pc.toNat, memRead s.mem (s.pc.toNat + 1) with
  | some hi, some lo => some (wordOfBytes hi lo)
  | _, _ => none

/-- `execute(Operation, OperandPattern)` for the word being executed (R95): the instruction of the pair, or `DecodeFailure` for
`UNDEFINED` (R196) and for every pair with no execution rule (R197). -/
def executePair (op : Operation) (pat : OperandPattern) (w : Word) (s : State) : Result :=
  match Instr.ofPair op pat with
  | .ok i => exec i s
  | .error _ => takeFault .decodeFailure w s

/-- Step 2: fetch, decode, execute; a fetch that faults records the word 0x0000 (R93, R95, R102). -/
def fetchDecodeExecute (s : State) : Result :=
  match fetchWord s with
  | none => takeFault .memoryRange 0x0000 s
  | some w => executePair (decodePair w).1 (decodePair w).2 w s

/-- After step 2: steps 3 to 5, unless the instruction faulted (R102). -/
def afterExecute : Result → Result
  | .next t => .next (if t.halted then t else finishCycle t)
  | .fault r => .fault r
  | .refused r => .refused r

/-- The cycle of R104 on a core that is not halted. Whether step 2 runs is decided by the latch as it was before step 1 (R92). -/
def activeCycle (events : List KeyEvent) (s : State) : Result :=
  if s.kw.latched then .next (finishCycle (applyKeyEvents events s))
  else afterExecute (fetchDecodeExecute (applyKeyEvents events s))

/-- One activation of `step` with the events delivered to it (R104): a halted core performs no cycle (R103). -/
def cycle (events : List KeyEvent) (s : State) : Result :=
  if s.halted then .next s else activeCycle events s

/-- The events the host delivers to the coming cycle: the first batch, or none (log entry 2). -/
def State.nextEvents (s : State) : List KeyEvent := s.keyInput.headD []

/-- The state a cycle starts from: its batch of events is taken from the input, and nothing has been emitted (log entries 2, 6). -/
def State.beginCycle (s : State) : State := { s with keyInput := s.keyInput.tail, out := [] }

end Sys2Proof.Machine
end

