-- ==== Sys2Proof/Machine/Step.lean ====
section
/-!
DEFINITION. One step of the machine: one activation of the port `step` (spec/00_scope.md R5, spec/40_cycle.md R90).
-/

namespace Sys2Proof.Machine

/-- One cycle, with the next batch of key events of the input. -/
def step (s : State) : Host.Outcome State Fault Refusal := cycle s.nextEvents s.beginCycle

/-- The state with a word of the opcode table stored where the next step fetches it: its two bytes at `PC`, the more significant
first (R46). The fetch needs a core that is neither halted nor waiting for a key, and a `PC` whose two bytes exist: where `PC` lies
above 0xFFE it is set to 0x200. -/
def State.withFetchWord (s : State) (nbits w : Nat) : State :=
  { s with
    pc := if s.pc.toNat < 0xFFF then s.pc else 0x200
    mem := s.mem.storeBlock (if s.pc.toNat < 0xFFF then s.pc.toNat else 0x200) (bytesOfWord (tableWord nbits w))
    halted := false
    kw := { s.kw with latched := false } }

end Sys2Proof.Machine
end

