-- ==== Sys2Proof/Machine/Boot.lean ====
section
/-!
DEFINITION. The ports `reset` and `load` (spec/70_reset_and_hazards.md R230 to R235) and the default font
(spec/20_memory.md R44). `FONT` is an argument of the load (R4, D24).
-/

namespace Sys2Proof.Machine

/-- The customary hexadecimal font, the default of `FONT` (R44; from general knowledge, not in the spec's source). -/
def defaultFont : Vector Byte 80 := #v[
  0xF0, 0x90, 0x90, 0x90, 0xF0,  0x20, 0x60, 0x20, 0x20, 0x70,  0xF0, 0x10, 0xF0, 0x80, 0xF0,  0xF0, 0x10, 0xF0, 0x10, 0xF0,
  0x90, 0x90, 0xF0, 0x10, 0x10,  0xF0, 0x80, 0xF0, 0x10, 0xF0,  0xF0, 0x80, 0xF0, 0x90, 0xF0,  0xF0, 0x10, 0x20, 0x40, 0x40,
  0xF0, 0x90, 0xF0, 0x90, 0xF0,  0xF0, 0x90, 0xF0, 0x10, 0xF0,  0xF0, 0x90, 0xF0, 0x90, 0x90,  0xE0, 0x90, 0xE0, 0x90, 0xE0,
  0xF0, 0x80, 0x80, 0x80, 0xF0,  0xE0, 0x90, 0x90, 0x90, 0xE0,  0xF0, 0x80, 0xF0, 0x80, 0xF0,  0xF0, 0x80, 0xF0, 0x80, 0x80]

/-- The `load` port: bytes written from an address on (R57). -/
def State.loadBytes (base : Nat) (bs : List Byte) (s : State) : State := s.setMem (s.mem.storeBlock base bs)

/-- The load before the first cycle: the font at 0x050, then the program image at 0x200; an image longer than 3584 bytes does not
fit, which the launch must rule out (R41, R233; U10). -/
def State.load (font : Vector Byte 80) (image : List Byte) (s : State) : Option State :=
  if image.length ≤ Config.maxImage then
    some ((s.loadBytes Config.fontBase font.toList).loadBytes Config.progBase image)
  else none

/-- Reset and load: the state the first cycle of a program starts from (R232, R233). -/
def State.boot (font : Vector Byte 80) (image : List Byte) : Option State := State.reset.load font image

/-- The event `reset` on a core in any state (R230): every element of the core takes its reset value, and nothing is emitted;
what the host will deliver later is not the core's, and the draws after it are fresh ones. -/
def State.resetEvent (s : State) : State := { State.reset with keyInput := s.keyInput, draws := s.draws }

end Sys2Proof.Machine
end

