-- ==== Sys2Proof/Safety.lean ====
section
/-!
DEFINITION. The terms in which claims speak of the machine: the invariant of every state of a run, the parts of the
state and what it means to leave them alone, the moments inside a cycle, and the end of a run (spec/70_reset_and_hazards.md R244).
-/

namespace Sys2Proof.Machine

/-! ### The invariant -/

/-- What holds of every state of a run: memory is in canonical form, `I` is below 2^12 (R12), and `PC` and the return addresses
stay where no addition to them wraps (R13, R112): a jump reaches at most 0xFFF + 0xFF, a return address is at most 0xFFE + 2. -/
def State.Inv (s : State) : Prop :=
  s.mem.wf = true ∧ s.i.toNat < 0x1000 ∧ s.pc.toNat ≤ 0x10FE ∧ ∀ j : Fin 16, s.stack[j].toNat ≤ 0x1000

/-! ### Parts of the state -/

/-- The parts of the state, one per element of spec/10_state.md, and the three fields that are the model's own. -/
inductive Part where
  | registers | index | counter | stack | pointer | delay | sound | memory | pixels | keys | keyWait | halted | faultRecord
  | hostEvents | draws | commands
deriving DecidableEq, Repr

/-- The part is the same in two states; memory is compared by reading each address. -/
def Part.Same : Part → State → State → Prop
  | .registers, s, t => ∀ r, t.getV r = s.getV r
  | .index, s, t => t.i = s.i
  | .counter, s, t => t.pc = s.pc
  | .stack, s, t => t.stack = s.stack
  | .pointer, s, t => t.sp = s.sp
  | .delay, s, t => t.dt = s.dt
  | .sound, s, t => t.st = s.st
  | .memory, s, t => ∀ a, t.mem.byteAt a = s.mem.byteAt a
  | .pixels, s, t => t.fb = s.fb
  | .keys, s, t => t.key = s.key
  | .keyWait, s, t => t.kw = s.kw
  | .halted, s, t => t.halted = s.halted
  | .faultRecord, s, t => t.fault = s.fault
  | .hostEvents, s, t => t.keyInput = s.keyInput
  | .draws, s, t => t.draws = s.draws
  | .commands, s, t => t.out = s.out

/-- Every part but those named is the same in two states. -/
def SameBut (ps : List Part) (s t : State) : Prop := ∀ p, p ∉ ps → p.Same s t

/-- Every general register but those named is the same in two states. -/
def SameRegistersBut (rs : List Reg) (s t : State) : Prop := ∀ r, r ∉ rs → t.getV r = s.getV r

/-- Every byte of memory outside the `n` bytes at `base` reads the same in two states. -/
def SameMemoryOutside (base n : Nat) (s t : State) : Prop :=
  ∀ a, ¬ (base ≤ a ∧ a < base + n) → t.mem.byteAt a = s.mem.byteAt a

/-! ### Moments of a cycle -/

/-- The state after step 1 of the next cycle: its key events are applied (R91). -/
def State.afterEvents (s : State) : State := applyKeyEvents s.nextEvents s.beginCycle

/-- The next cycle executes the instruction: the core is neither halted nor waiting, and the word at `PC` decodes to it. -/
def State.WillExecute (s : State) (i : Instr) : Prop :=
  s.halted = false ∧ s.kw.latched = false ∧ ∃ w, fetchWord s = some w ∧ decode w = .ok i

/-- The state after step 2 of the next cycle of a core that is not halted, where no fault is taken: that after step 1 in a waiting
cycle (R92), else that after the execution of the fetched instruction. -/
def State.AfterStepTwo (s u : State) : Prop :=
  (s.halted = false ∧ s.kw.latched = true ∧ u = s.afterEvents) ∨
  (∃ i, s.WillExecute i ∧ exec i s.afterEvents = .next u ∧ u.halted = false)

/-- The first key-down event of a list (R91). -/
def firstKeyDown (events : List KeyEvent) : Option KeyEvent := events.find? (·.pressed)

/-! ### What the rules say of an instruction -/

/-- Which fault, if any, an instruction meets: the table of R200, with the conditions of R48. -/
def faultMet : Instr → State → Option FaultKind
  | .sysAddr _, _ => some .decodeFailure
  | .callAddr _, s => if s.sp.val = 16 then some .stackOverflow else none
  | .ret, s => if s.sp.val = 0 then some .stackUnderflow else none
  | .drw _ _ n, s => if 1 ≤ n.val ∧ s.i.toNat + n.val - 1 > 0xFFF then some .memoryRange else none
  | .ldB _, s => if s.i.toNat + 2 > 0xFFF then some .memoryRange else none
  | .storeRegs x, s => if s.i.toNat + x.val > 0xFFF then some .memoryRange else none
  | .loadRegs x, s => if s.i.toNat + x.val > 0xFFF then some .memoryRange else none
  | _, _ => none

/-- The parts an instruction may write: `PC`, which every instruction that completes advances or sets; of the others those that the
rules R10 to R24 and R58 name; and the fault latch for those that can fault (R200). -/
def mayWrite : Instr → List Part
  | .sysAddr _ => [.halted, .faultRecord]
  | .jpAddr _ | .jpV0 _ | .seByte _ _ | .sneByte _ _ | .seReg _ _ | .sneReg _ _ | .skp _ | .sknp _ => [.counter]
  | .callAddr _ => [.counter, .stack, .pointer, .halted, .faultRecord]
  | .ret => [.counter, .pointer, .halted, .faultRecord]
  | .ldByte _ _ | .ldReg _ _ | .ldVxDT _ | .addByte _ _ | .orReg _ _ | .andReg _ _ | .xorReg _ _ | .addReg _ _ | .subReg _ _
  | .shr _ _ | .subnReg _ _ | .shl _ _ => [.counter, .registers]
  | .ldI _ | .addI _ | .ldF _ => [.counter, .index]
  | .ldVxK _ => [.counter, .keyWait]
  | .ldDTVx _ => [.counter, .delay]
  | .ldSTVx _ => [.counter, .sound]
  | .rnd _ _ => [.counter, .registers, .draws]
  | .drw _ _ _ => [.counter, .registers, .pixels, .commands, .halted, .faultRecord]
  | .cls => [.counter, .pixels, .commands]
  | .ldB _ | .storeRegs _ => [.counter, .memory, .halted, .faultRecord]
  | .loadRegs _ => [.counter, .registers, .halted, .faultRecord]

/-- The result `b` in `V[x]`; every other register (so `VF`, unless it is `V[x]`) and all else but the advance of `PC` as before. -/
def WritesOnly (x : Reg) (b : Byte) (s t : State) : Prop :=
  t.getV x = b ∧ SameRegistersBut [x] s t ∧ t.pc = s.pc + 2 ∧ SameBut [.registers, .counter] s t

/-- The result `b` in `V[x]` unless it is `VF`, the flag in `VF` in every case, every other register and all else but the advance
of `PC` as before. -/
def WritesWithFlag (x : Reg) (b : Byte) (flag : Prop) (s t : State) : Prop :=
  (x ≠ VF → t.getV x = b) ∧ (flag → t.getV VF = 1) ∧ (¬ flag → t.getV VF = 0) ∧ SameRegistersBut [x, VF] s t ∧
  t.pc = s.pc + 2 ∧ SameBut [.registers, .counter] s t

/-- The sprite of a `DRW` has a set bit on the cell: some row `r` below `n` and column `c` below 8 with that bit of `MEM[I + r]` set,
placed from `(V[x], V[y])` and reduced modulo 64 and 32. -/
def SpriteCovers (x y : Reg) (n : Fin 16) (s : State) (px : Fin 64) (py : Fin 32) : Prop :=
  ∃ r c, r < n.val ∧ c < 8 ∧ (s.mem.byteAt (s.i.toNat + r)).getLsbD (7 - c) = true ∧
    px.val = ((s.getV x).toNat + c) % 64 ∧ py.val = ((s.getV y).toNat + r) % 32

/-- The pixel in a column and row, as the cell `y * 64 + x` of `FB`. -/
def pixelAt (s : State) (px : Fin 64) (py : Fin 32) : Bool := s.fb.at ⟨py.val * 64 + px.val, by omega⟩

/-! ### The end of a run -/

/-- The success condition the spec offers (R244, D32): not halted, and the next instruction is a jump to itself. -/
def State.AtSelfJump (s : State) : Prop :=
  ∃ nnn : Addr, s.WillExecute (.jpAddr nnn) ∧ s.pc.toNat = nnn.toNat

end Sys2Proof.Machine
end

