-- ==== Sys2Proof/Certificates/Slice0/Obligations.lean ====
section
/-!
DEFINITION. The statements for the provers, from the numbered rules of spec/. Meanings are stated of `exec`, which
runs on the state after step 1 of a cycle, with `PC` at the instruction; cycles are stated of `step`.
-/

open Sys2Proof Sys2Proof.Machine

/-! ### Encoding and decoding -/

/-- One word of each of the sixteen families and a neighbour of each of the two exact matches decode to the instruction they stand
for, and three words that are no instruction are rejected, the words written out from the opcode map (30_encoding.md section 4,
95_test_vectors.md L2.1; the bit patterns are the spec's D3, that 0x5AB1 is rejected is its D4). -/
def Obligations.DecodeOfSampleWords : Prop :=
  decode 0x00E0 = .ok .cls ∧ decode 0x00EE = .ok .ret ∧ decode 0x00E1 = .ok (.sysAddr 0x0E1) ∧
  decode 0x00EF = .ok (.sysAddr 0x0EF) ∧ decode 0x6A7F = .ok (.ldByte 10 0x7F) ∧ decode 0x7A7F = .ok (.addByte 10 0x7F) ∧
  decode 0xB123 = .ok (.jpV0 0x123) ∧
  decode 0x10E0 = .ok (.jpAddr 0x0E0) ∧ decode 0x2ABC = .ok (.callAddr 0xABC) ∧ decode 0x3A7F = .ok (.seByte 10 0x7F) ∧
  decode 0x4A7F = .ok (.sneByte 10 0x7F) ∧ decode 0x5AB0 = .ok (.seReg 10 11) ∧ decode 0x8AB7 = .ok (.subnReg 10 11) ∧
  decode 0x9AB0 = .ok (.sneReg 10 11) ∧ decode 0xA123 = .ok (.ldI 0x123) ∧ decode 0xC1F0 = .ok (.rnd 1 0xF0) ∧
  decode 0xD125 = .ok (.drw 1 2 5) ∧ decode 0xE1A1 = .ok (.sknp 1) ∧ decode 0xF10A = .ok (.ldVxK 1) ∧
  decode 0x8AB8 = .error .undefined ∧ decode 0x5AB1 = .error .undefined ∧ decode 0xF175 = .error .undefined

/-- Every well-formed instruction, with every operand at every value its format admits, is what its encoding decodes to, as a word
and as the first two bytes of any byte string. -/
def Obligations.DecodeOfEncode : Prop :=
  ∀ i : Instr, i.wellFormed = true →
    decode (encode i) = .ok i ∧ ∀ rest, decodeBytes (encodeBytes i ++ rest) = .ok (i, rest)

/-- A word that decodes is the encoding of the well-formed instruction it decodes to: no two words stand for one instruction
(the bit patterns are the spec's D3; that the low nibble of 5xyN and 9xyN must be 0, without which fifteen more words would stand
for each `SE Vx, Vy` and `SNE Vx, Vy`, is its D4, log entry 13). -/
def Obligations.EncodeOfDecode : Prop :=
  ∀ (w : Word) (i : Instr), decode w = .ok i → i.wellFormed = true ∧ encode i = w

/-- The words that are no instruction are exactly those of R73, and each is rejected as `UNDEFINED`; so every word is in exactly
one class. Membership rests on the spec's D3 and D4. -/
def Obligations.UndefinedWordsAreThoseListed : Prop :=
  ∀ w : Word,
    ((∃ r, decode w = .error r) ↔
      (w.toNat / 4096 = 0x5 ∧ w.toNat % 16 ≠ 0) ∨
      (w.toNat / 4096 = 0x8 ∧ w.toNat % 16 ∈ [0x8, 0x9, 0xA, 0xB, 0xC, 0xD, 0xF]) ∨
      (w.toNat / 4096 = 0x9 ∧ w.toNat % 16 ≠ 0) ∨
      (w.toNat / 4096 = 0xE ∧ w.toNat % 256 ∉ [0x9E, 0xA1]) ∨
      (w.toNat / 4096 = 0xF ∧ w.toNat % 256 ∉ [0x07, 0x0A, 0x15, 0x18, 0x1E, 0x29, 0x33, 0x55, 0x65])) ∧
    ∀ r, decode w = .error r → r = .undefined

/-! ### Memory, fetch, reset and load -/

/-- A byte written at an address up to 0xFFF is what every later read there gives, every other address reads as before, and memory
stays in canonical form (the form is the model's choice, log entry 9); above 0xFFF neither a read nor a write is made (the spec's
D11). -/
def Obligations.MemReadAfterMemWrite : Prop :=
  (∀ (m : Memory) (a : Nat) (b : Byte), m.wf = true → a ≤ 0xFFF →
    ∃ m', memWrite m a b = some m' ∧ m'.wf = true ∧ memRead m' a = some b ∧
      ∀ c, c ≠ a → memRead m' c = memRead m c) ∧
  (∀ (m : Memory) (a : Nat) (b : Byte), 0xFFF < a → memRead m a = none ∧ memWrite m a b = none)

/-- Two memories in canonical form that read alike at every address are equal data (a property of the model's form of memory, log
entry 9). -/
def Obligations.MemoriesThatReadAlikeAreEqual : Prop :=
  ∀ m m' : Memory, m.wf = true → m'.wf = true → (∀ a, m.byteAt a = m'.byteAt a) → m = m'

/-- A fetch reads the byte at `PC` as the more significant half of the word and the byte at `PC + 1` as the other; a `PC` of 0xFFF
or more makes it fault with `MemoryRange`, the word 0x0000 and the address `PC` (the fault is the spec's D11). -/
def Obligations.FetchAssemblesTwoBytes : Prop :=
  ∀ s : State,
    (s.pc.toNat < 0xFFF → ∃ w, fetchWord s = some w ∧
      w.extractLsb' 8 8 = s.mem.byteAt s.pc.toNat ∧ w.extractLsb' 0 8 = s.mem.byteAt (s.pc.toNat + 1)) ∧
    (0xFFF ≤ s.pc.toNat → fetchWord s = none ∧ ∃ t, fetchDecodeExecute s = .next t ∧ t.halted = true ∧
      t.fault = ⟨.memoryRange, 0x0000, s.pc⟩ ∧ SameBut [.halted, .faultRecord] s t)

/-- Right after reset every register, timer and stack slot is 0, `PC` is 0x200, memory reads 0x00 everywhere, every cell and every
key is false, no key wait is pending and the core is not halted; and the event `reset` gives this from every state. The values of
`I`, `STACK`, `SP`, `DT`, `ST`, `KEY` and `KW` are the spec's D22, not its source's. -/
def Obligations.ResetValues : Prop :=
  ∀ s t : State, t = State.reset ∨ t = s.resetEvent →
    (∀ r, t.getV r = 0) ∧ t.i = 0 ∧ t.pc = 0x0200 ∧ (∀ j : Fin 16, t.stack[j] = 0) ∧ t.sp = 0 ∧ t.dt = 0 ∧ t.st = 0 ∧
    (∀ a, t.mem.byteAt a = 0) ∧ (∀ k, t.fb.at k = false) ∧ (∀ k : Key, t.key[k] = false) ∧
    t.kw = ⟨false, 0⟩ ∧ t.halted = false ∧ t.out = []

/-- After reset and load, with no step, the image stands at 0x200 and up, the font at 0x050 and up, every other byte is 0x00, and
nothing but memory differs from reset. -/
def Obligations.LoadRoundTrip : Prop :=
  ∀ (font : Vector Byte 80) (image : List Byte), image.length ≤ 3584 →
    ∃ s, State.boot font image = some s ∧
      (∀ j (h : j < image.length), s.mem.byteAt (0x200 + j) = image[j]) ∧
      (∀ j (h : j < 80), s.mem.byteAt (0x050 + j) = font[j]) ∧
      (∀ a, ¬ (0x200 ≤ a ∧ a < 0x200 + image.length) → ¬ (0x050 ≤ a ∧ a < 0x0A0) → s.mem.byteAt a = 0x00) ∧
      SameBut [.memory] State.reset s

/-- An image longer than 3584 bytes is not loaded. The spec makes the length a premise of the launch (its U10) and does not say what
a loader does with a longer image; that `State.boot` answers none is the model's choice, log entry 16. -/
def Obligations.LoadRefusesLongImage : Prop :=
  ∀ (font : Vector Byte 80) (image : List Byte), 3584 < image.length → State.boot font image = none

/-! ### The invariant -/

/-- The invariant holds at reset and after every load that fits. Its clause on the canonical form of memory is the model's choice, log
entry 9; the values of `I` and `STACK` at reset are the spec's D22. -/
def Obligations.InvariantAtStart : Prop :=
  State.reset.Inv ∧ ∀ font image s, State.boot font image = some s → s.Inv

/-- Every step keeps the invariant: memory in canonical form (the form is the model's choice, log entry 9), `I` below 2^12, `PC` and
the return addresses where no addition to them wraps (the bound of `I` rests on the spec's D14, that of `PC` on its D9). -/
def Obligations.StepKeepsInvariant : Prop :=
  ∀ s t : State, s.Inv → step s = .next t → t.Inv

/-! ### The cycle -/

/-- A step of a core that is neither halted nor waiting, whose word at `PC` decodes to an instruction, is the execution of that
instruction on the state after step 1, and then the ticks and the publishing unless it faulted. -/
def Obligations.StepExecutesDecodedInstruction : Prop :=
  ∀ (s u : State) (i : Instr), s.WillExecute i → exec i s.afterEvents = .next u →
    step s = .next (if u.halted then u else publish (tickSound (tickDelay u)))

/-- Every step answers a next state: no fault or refusal of the model, and no state without a successor. That a fault of the spec is
a next state with the halted latch set is log entry 1 (deduced; R207 also allows a terminal outcome), the latch the spec's D23. -/
def Obligations.StepAlwaysAnswersNext : Prop :=
  ∀ s : State, ∃ t, step s = .next t

/-- A fetched word that is `UNDEFINED` halts the core with `DecodeFailure`, that word and its address; nothing else changes but the
key matrix, by step 1, and no command is emitted (the frame is the spec's D23). -/
def Obligations.UndefinedWordHalts : Prop :=
  ∀ (s : State) (w : Word) (r : DecodeReject), s.halted = false → s.kw.latched = false →
    fetchWord s = some w → decode w = .error r →
    ∃ t, step s = .next t ∧ t.halted = true ∧ t.fault = ⟨.decodeFailure, w, s.pc⟩ ∧ t.out = [] ∧
      SameBut [.keys, .halted, .faultRecord, .hostEvents, .commands] s t

/-- A step whose fetch would read above 0xFFF halts the core with `MemoryRange`, the word 0x0000 and the `PC` (the fault is the
spec's D11, the frame its D23). -/
def Obligations.FetchOutOfRangeHalts : Prop :=
  ∀ s : State, s.halted = false → s.kw.latched = false → 0xFFF ≤ s.pc.toNat →
    ∃ t, step s = .next t ∧ t.halted = true ∧ t.fault = ⟨.memoryRange, 0x0000, s.pc⟩ ∧ t.out = [] ∧
      SameBut [.keys, .halted, .faultRecord, .hostEvents, .commands] s t

/-- `execute` of a pair that is none of the 35 raises `DecodeFailure`; of the pair of an instruction it is that instruction's
execution, whatever word stands beside it (the latch that reports the fault is the spec's D23; that the word is not used then is log
entry 19). -/
def Obligations.UnpairedOperationHalts : Prop :=
  (∀ (op : Operation) (pat : OperandPattern) (w : Word) (s : State), (∀ i : Instr, i.pair ≠ (op, pat)) →
    ∃ t, executePair op pat w s = .next t ∧ t.halted = true ∧ t.fault = ⟨.decodeFailure, w, s.pc⟩ ∧
      SameBut [.halted, .faultRecord] s t) ∧
  (∀ (i : Instr) (w : Word) (s : State), executePair i.pair.1 i.pair.2 w s = exec i s)

/-- A halted core performs no cycle: any number of steps, whatever the host delivers, changes no state and emits nothing; only
reset leaves the condition. -/
def Obligations.HaltedCoreStaysHalted : Prop :=
  ∀ (n : Nat) (s : State), s.halted = true →
    (∃ t, Host.Core.run Sys2Proof.core n s = .next t ∧ SameBut [.hostEvents, .commands] s t ∧ (0 < n → t.out = [])) ∧
    s.resetEvent.halted = false

/-- Every instruction answers a next state. Where it meets a fault of R200's table, that state differs from the one before in the
latch alone, which holds the kind, the instruction's word and its address; where it meets none the core does not halt. The fault
`MemoryRange` is the spec's D11, `SYS` as a fault its D5, the latch its D23; that a fault is a next state is log entry 1, and that the
recorded word is the instruction's encoding is log entry 19. -/
def Obligations.InstructionFaultsExactlyAsTabled : Prop :=
  ∀ (i : Instr) (s : State), ∃ t, exec i s = .next t ∧
    (∀ k, faultMet i s = some k →
      t.halted = true ∧ t.fault = ⟨k, encode i, s.pc⟩ ∧ SameBut [.halted, .faultRecord] s t) ∧
    (faultMet i s = none → t.halted = s.halted ∧ t.fault = s.fault)

/-- A faulting cycle is precise: the core was not waiting for a key, no command is emitted, `FAULT` holds the address `PC` had and
the word fetched there (0x0000 where there is none), and every part of the core but the key matrix and the latch is as before,
`PC` included (the spec's D23 and D31). -/
def Obligations.FaultingCycleIsPrecise : Prop :=
  ∀ s t : State, s.halted = false → step s = .next t → t.halted = true →
    s.kw.latched = false ∧ t.out = [] ∧ t.fault.addr = s.pc ∧ t.fault.instr = (fetchWord s).getD 0x0000 ∧
    SameBut [.keys, .halted, .faultRecord, .hostEvents, .commands] s t

/-- Step 1: each key ends as its last event says; the first key-down ends a pending wait and is written, as its index, to the
target register; later events and key-up events touch the key matrix alone (the spec's D21; that `KW.reg` keeps its
value when the wait ends is the model's reading, log entry 11, where the spec's U13 leaves any value). -/
def Obligations.KeyEventsAreAppliedInOrder : Prop :=
  ∀ (es : List KeyEvent) (s t : State), applyKeyEvents es s = t →
    (∀ k : Key, t.key[k] = ((es.reverse.find? fun e => e.key == k).map (·.pressed)).getD s.key[k]) ∧
    (∀ e, s.kw.latched = true → firstKeyDown es = some e →
      t.kw = ⟨false, s.kw.reg⟩ ∧ t.getV s.kw.reg = BitVec.ofNat 8 e.key.val ∧ SameRegistersBut [s.kw.reg] s t) ∧
    (s.kw.latched = false ∨ firstKeyDown es = none → SameBut [.keys] s t) ∧
    SameBut [.registers, .keys, .keyWait] s t

/-- A cycle of a waiting core fetches nothing: `PC`, memory, the pixels and the stack stay, both timers tick, and the wait ends
exactly if a key-down is delivered, whose index the target register then holds (the spec's D19, D21; that `KW.reg` keeps its value
when the wait ends is the model's reading, log entry 11, where the spec's U13 leaves any value). -/
def Obligations.WaitingCycle : Prop :=
  ∀ s : State, s.halted = false → s.kw.latched = true →
    ∃ t, step s = .next t ∧ t.halted = false ∧
      t.dt.toNat = s.dt.toNat - 1 ∧ t.st.toNat = s.st.toNat - 1 ∧
      (firstKeyDown s.nextEvents = none → t.kw = s.kw ∧ SameRegistersBut [] s t) ∧
      (∀ e, firstKeyDown s.nextEvents = some e →
        t.kw = ⟨false, s.kw.reg⟩ ∧ (t.getV s.kw.reg).toNat = e.key.val ∧ SameRegistersBut [s.kw.reg] s t) ∧
      SameBut [.registers, .delay, .sound, .keys, .keyWait, .hostEvents, .commands] s t

/-- A key wait has no timeout: while no key-down is delivered, any number of cycles leaves the core waiting, with the same `PC`,
registers, memory and stack. -/
def Obligations.KeyWaitNeverTimesOut : Prop :=
  ∀ (n : Nat) (s : State), s.halted = false → s.kw.latched = true →
    (∀ batch ∈ s.keyInput, ∀ e ∈ batch, e.pressed = false) →
    ∃ t, Host.Core.run Sys2Proof.core n s = .next t ∧ t.kw = s.kw ∧
      SameBut [.delay, .sound, .keys, .hostEvents, .commands] s t

/-- Step 3 of every cycle that does not fault: from the value after step 2, the delay timer goes down by 1 unless it is 0. An
`LD DT, Vx` is ticked in its own cycle and an `LD Vx, DT` reads the value before the tick (that a waiting cycle ticks too is the
spec's D19). -/
def Obligations.DelayTimerTicksOncePerCycle : Prop :=
  (∀ s u : State, s.AfterStepTwo u → ∃ t, step s = .next t ∧
    (u.dt ≠ 0 → t.dt = u.dt - 1) ∧ (u.dt = 0 → t.dt = 0)) ∧
  (∀ (s : State) (x : Reg), s.WillExecute (.ldDTVx x) →
    ∃ u, exec (.ldDTVx x) s.afterEvents = .next u ∧ u.dt = s.getV x ∧ s.AfterStepTwo u) ∧
  (∀ (s : State) (x : Reg), s.WillExecute (.ldVxDT x) → ∃ t, step s = .next t ∧ t.getV x = s.dt)

/-- Step 4: from the value after step 2, `ST` goes down by 1 unless it is 0, and the audio commands of the cycle are one `Play`
if it is still not 0, one `Pause` if it just reached 0, and for `ST = 0` a `Pause` exactly under `PAUSE_WHEN_IDLE` (the spec's
D20). -/
def Obligations.AudioFollowsSoundTimer : Prop :=
  ∀ s u : State, s.AfterStepTwo u → ∃ t, step s = .next t ∧ t.st.toNat = u.st.toNat - 1 ∧
    t.out.filter (fun c => c == .play || c == .pause) =
      (if u.st.toNat ≥ 2 then [.play] else if u.st.toNat = 1 then [.pause]
        else if Config.pauseWhenIdle then [.pause] else [])

/-- The commands of a cycle that does not fault, in order: at most one display command of step 2, at most one audio command, the
pixels as they then are, and the memory under `MEM_SNAPSHOT` (the spec's D26). -/
def Obligations.CommandsLeaveInOrder : Prop :=
  ∀ s t : State, s.halted = false → step s = .next t → t.halted = false →
    ∃ display ∈ [[], [Command.sendClearDisplay], [Command.sendDraw]], ∃ audio ∈ [[], [Command.play], [Command.pause]],
      t.out = display ++ audio ++ [.sendPixels t.fb] ++ (if Config.memSnapshot then [.memorySnapshot t.mem] else [])

/-- A jump to its own address spins: a step leaves everything but the timers, the keys and the commands, and the core is at the
jump again. -/
def Obligations.SelfJumpSpins : Prop :=
  ∀ s : State, s.AtSelfJump → ∃ t, step s = .next t ∧ t.AtSelfJump ∧
    SameBut [.delay, .sound, .keys, .hostEvents, .commands] s t

/-- A word of which both bytes were stored by `LD [I], Vx` is fetched as stored: the register at the lower address is its more
significant byte. -/
def Obligations.FetchSeesStoredRegisters : Prop :=
  ∀ (x r : Reg) (s t : State), s.mem.wf = true → s.i.toNat + x.val ≤ 0xFFF → exec (.storeRegs x) s = .next t →
    ∀ h : r.val + 1 ≤ x.val, t.pc.toNat = s.i.toNat + r.val →
      fetchWord t = some (wordOfBytes (s.getV r) (s.getV ⟨r.val + 1, by omega⟩))

/-! ### Who writes what -/

/-- No instruction writes a part of the state that the rules do not let it write: `I` is written by `LD I`, `LD F` and `ADD I`
only, memory by `LD B` and `LD [I], Vx`, the pixels by `DRW` and `CLS`, the stack by `CALL`, `KEY` by none, and so on. -/
def Obligations.InstructionsWriteOnlyTheirParts : Prop :=
  ∀ (i : Instr) (s t : State), exec i s = .next t → SameBut (mayWrite i) s t

/-- `PC` is advanced by 2 by every instruction that completes, except the jumps, `CALL` and `RET`, which set it, and the skips,
which may add 2 more; an instruction that faults leaves it. -/
def Obligations.ProgramCounterWriters : Prop :=
  ∀ (i : Instr) (s t : State), exec i s = .next t → s.halted = false →
    (t.halted = true → t.pc = s.pc) ∧
    (t.halted = false → t.pc = s.pc + 2 ∨
      (∃ n, i = .jpAddr n ∨ i = .jpV0 n ∨ i = .callAddr n) ∨ i = .ret ∨
      (t.pc = s.pc + 4 ∧ ∃ x y k, i = .seByte x k ∨ i = .sneByte x k ∨ i = .seReg x y ∨ i = .sneReg x y ∨ i = .skp x ∨
        i = .sknp x))

/-- `VF` is written by an instruction only as a flag, which is then 0 or 1, by `ADD Vx, Vy`, `SUB`, `SUBN`, `SHR`, `SHL` and `DRW`,
or where register 15 is the destination it names (the spec's D7, D8). -/
def Obligations.FlagRegisterWriters : Prop :=
  ∀ (i : Instr) (s t : State), exec i s = .next t → t.getV VF ≠ s.getV VF →
    ((∃ x y n, i = .addReg x y ∨ i = .subReg x y ∨ i = .subnReg x y ∨ i = .shr x y ∨ i = .shl x y ∨ i = .drw x y n) ∧
      (t.getV VF = 0 ∨ t.getV VF = 1)) ∨
    (∃ y k, i = .ldByte VF k ∨ i = .ldReg VF y ∨ i = .ldVxDT VF ∨ i = .loadRegs VF ∨ i = .addByte VF k ∨ i = .orReg VF y ∨
      i = .andReg VF y ∨ i = .xorReg VF y ∨ i = .rnd VF k)

/-! ### Jump, call, return -/

/-- `JP addr` sets `PC` to the 12-bit address, zero-extended, and changes nothing else. -/
def Obligations.JumpSetsProgramCounter : Prop :=
  ∀ (nnn : Addr) (s : State), ∃ t, exec (.jpAddr nnn) s = .next t ∧ t.pc.toNat = nnn.toNat ∧ SameBut [.counter] s t

/-- `JP V0, addr` sets `PC` to the sum of the address and `V[0]`, not masked to 12 bits, and changes nothing else (the spec's
D9). -/
def Obligations.JumpV0AddsRegisterZero : Prop :=
  ∀ (nnn : Addr) (s : State), ∃ t, exec (.jpV0 nnn) s = .next t ∧ t.pc.toNat = nnn.toNat + (s.getV 0).toNat ∧
    SameBut [.counter] s t

/-- `CALL addr` with fewer than 16 entries stores the address of the next instruction in slot `SP`, counts it and jumps; the other
slots and everything else stay (the slot is the spec's D10). -/
def Obligations.CallPushesReturnAddress : Prop :=
  ∀ (nnn : Addr) (s : State), s.sp.val < 16 →
    ∃ t, exec (.callAddr nnn) s = .next t ∧ t.pc.toNat = nnn.toNat ∧ t.sp.val = s.sp.val + 1 ∧
      (∀ j : Fin 16, t.stack[j] = if j.val = s.sp.val then s.pc + 2 else s.stack[j]) ∧
      SameBut [.counter, .stack, .pointer] s t

/-- A `CALL` with 16 return addresses on the stack raises `StackOverflow`: `SP` does not wrap and no slot is overwritten (the
latch that reports it is the spec's D23). -/
def Obligations.CallOnFullStackHalts : Prop :=
  ∀ (nnn : Addr) (s : State), s.sp.val = 16 →
    ∃ t, exec (.callAddr nnn) s = .next t ∧ t.halted = true ∧ t.fault.kind = .stackOverflow ∧
      t.fault.instr.toNat = 0x2000 + nnn.toNat ∧ t.fault.addr = s.pc ∧ SameBut [.halted, .faultRecord] s t

/-- `RET` on a stack that is not empty counts down and sets `PC` to the most recently pushed address; the slot keeps its value (the
spec's D10). -/
def Obligations.ReturnPopsLastAddress : Prop :=
  ∀ (s : State) (j : Fin 16), s.sp.val = j.val + 1 →
    ∃ t, exec .ret s = .next t ∧ t.sp.val = j.val ∧ t.pc = s.stack[j] ∧ SameBut [.counter, .pointer] s t

/-- A `RET` on an empty stack raises `StackUnderflow`: `SP` does not wrap (the latch that reports it is the spec's D23). -/
def Obligations.ReturnOnEmptyStackHalts : Prop :=
  ∀ s : State, s.sp.val = 0 →
    ∃ t, exec .ret s = .next t ∧ t.halted = true ∧ t.fault = ⟨.stackUnderflow, 0x00EE, s.pc⟩ ∧
      SameBut [.halted, .faultRecord] s t

/-! ### Skips -/

/-- `SE Vx, byte` skips on a match and `SNE Vx, byte` on a mismatch: 2 more are added to the advanced `PC`, and nothing else
changes. -/
def Obligations.SkipComparesWithImmediate : Prop :=
  ∀ (x : Reg) (kk : Byte) (s : State),
    (∃ t, exec (.seByte x kk) s = .next t ∧ t.pc = (if s.getV x = kk then s.pc + 4 else s.pc + 2) ∧
      SameBut [.counter] s t) ∧
    (∃ t, exec (.sneByte x kk) s = .next t ∧ t.pc = (if s.getV x ≠ kk then s.pc + 4 else s.pc + 2) ∧
      SameBut [.counter] s t)

/-- `SE Vx, Vy` skips on a match and `SNE Vx, Vy` on a mismatch of two registers. -/
def Obligations.SkipComparesRegisters : Prop :=
  ∀ (x y : Reg) (s : State),
    (∃ t, exec (.seReg x y) s = .next t ∧ t.pc = (if s.getV x = s.getV y then s.pc + 4 else s.pc + 2) ∧
      SameBut [.counter] s t) ∧
    (∃ t, exec (.sneReg x y) s = .next t ∧ t.pc = (if s.getV x ≠ s.getV y then s.pc + 4 else s.pc + 2) ∧
      SameBut [.counter] s t)

/-- `SKP Vx` skips if the key whose index is the low nibble of `V[x]` is pressed, `SKNP Vx` if it is not. -/
def Obligations.SkipTestsKey : Prop :=
  ∀ (x : Reg) (k : Key) (s : State), k.val = (s.getV x).toNat % 16 →
    (∃ t, exec (.skp x) s = .next t ∧ t.pc = (if s.key[k] = true then s.pc + 4 else s.pc + 2) ∧
      SameBut [.counter] s t) ∧
    (∃ t, exec (.sknp x) s = .next t ∧ t.pc = (if s.key[k] = true then s.pc + 2 else s.pc + 4) ∧
      SameBut [.counter] s t)

/-! ### Loads -/

/-- `LD Vx, byte` writes the immediate and `LD Vx, Vy` the other register to `V[x]`; every other register and everything else but
the advance of `PC` stays. -/
def Obligations.LoadRegister : Prop :=
  ∀ (x y : Reg) (kk : Byte) (s : State),
    (∃ t, exec (.ldByte x kk) s = .next t ∧ t.getV x = kk ∧ SameRegistersBut [x] s t ∧ t.pc = s.pc + 2 ∧
      SameBut [.registers, .counter] s t) ∧
    (∃ t, exec (.ldReg x y) s = .next t ∧ t.getV x = s.getV y ∧ SameRegistersBut [x] s t ∧ t.pc = s.pc + 2 ∧
      SameBut [.registers, .counter] s t)

/-- `LD I, addr` writes the address, `LD F, Vx` the value 0x050 + 5 * V[x], for every value of `V[x]`, and `ADD I, Vx` the sum of
`I` and `V[x]` modulo 4096; no register and no flag changes (`LD F` above 15 is the spec's D14, the forms of `LD I` and `ADD I`
are from general knowledge, that `VF` stays is its D8). -/
def Obligations.IndexRegisterWrites : Prop :=
  ∀ (x : Reg) (nnn : Addr) (s : State),
    (∃ t, exec (.ldI nnn) s = .next t ∧ t.i.toNat = nnn.toNat ∧ t.pc = s.pc + 2 ∧ SameBut [.index, .counter] s t) ∧
    (∃ t, exec (.ldF x) s = .next t ∧ t.i.toNat = 0x050 + 5 * (s.getV x).toNat ∧ t.pc = s.pc + 2 ∧
      SameBut [.index, .counter] s t) ∧
    (∃ t, exec (.addI x) s = .next t ∧ t.i.toNat = (s.i.toNat + (s.getV x).toNat) % 4096 ∧ t.pc = s.pc + 2 ∧
      SameBut [.index, .counter] s t)

/-- `LD Vx, DT` copies the delay timer as it stood at the end of the previous cycle; the cycle then ticks it. -/
def Obligations.LoadFromDelayTimer : Prop :=
  ∀ (x : Reg) (s : State),
    (∃ t, exec (.ldVxDT x) s = .next t ∧ t.getV x = s.dt ∧ SameRegistersBut [x] s t ∧ t.pc = s.pc + 2 ∧
      SameBut [.registers, .counter] s t) ∧
    (s.WillExecute (.ldVxDT x) → ∃ t, step s = .next t ∧ t.getV x = s.dt ∧ t.dt.toNat = s.dt.toNat - 1)

/-- `LD DT, Vx` copies `V[x]` to the delay timer, and the cycle ends with `V[x] - 1`, or 0 for 0 (the latter derived by the spec
from its R96). -/
def Obligations.LoadToDelayTimer : Prop :=
  ∀ (x : Reg) (s : State),
    (∃ t, exec (.ldDTVx x) s = .next t ∧ t.dt = s.getV x ∧ t.pc = s.pc + 2 ∧ SameBut [.delay, .counter] s t) ∧
    (s.WillExecute (.ldDTVx x) → ∃ t, step s = .next t ∧ t.dt.toNat = (s.getV x).toNat - 1)

/-- `LD ST, Vx` copies `V[x]` to the sound timer; the cycle ends with `V[x] - 1`, or 0 for 0, and emits `Play` exactly for
`V[x] >= 2` (when `Play` is emitted is the spec's D20). -/
def Obligations.LoadToSoundTimer : Prop :=
  ∀ (x : Reg) (s : State),
    (∃ t, exec (.ldSTVx x) s = .next t ∧ t.st = s.getV x ∧ t.pc = s.pc + 2 ∧ SameBut [.sound, .counter] s t) ∧
    (s.WillExecute (.ldSTVx x) → ∃ t, step s = .next t ∧ t.st.toNat = (s.getV x).toNat - 1 ∧
      (Command.play ∈ t.out ↔ 2 ≤ (s.getV x).toNat))

/-- `LD Vx, K` sets the key-wait latch with `x` as its target and does nothing else in its own cycle: no register is written, and a
key-down delivered to that cycle does not end the wait (the spec's D21). -/
def Obligations.WaitForKeySetsLatch : Prop :=
  ∀ (x : Reg) (s : State),
    (∃ t, exec (.ldVxK x) s = .next t ∧ t.kw = ⟨true, x⟩ ∧ t.pc = s.pc + 2 ∧ SameBut [.keyWait, .counter] s t) ∧
    (s.WillExecute (.ldVxK x) → ∃ t, step s = .next t ∧ t.kw = ⟨true, x⟩ ∧ t.pc = s.pc + 2 ∧ SameRegistersBut [] s t)

/-- `LD B, Vx` stores the hundreds, tens and ones digits of `V[x]` at `I`, `I + 1`, `I + 2`, where all three exist; every byte
outside them reads as before (base and order are the spec's D16). -/
def Obligations.StoreDecimalDigits : Prop :=
  ∀ (x : Reg) (s : State), s.mem.wf = true → s.i.toNat + 2 ≤ 0xFFF →
    ∃ t, exec (.ldB x) s = .next t ∧ t.pc = s.pc + 2 ∧ SameBut [.memory, .counter] s t ∧
      ∀ a, s.dataAddr = a →
        (t.mem.byteAt a).toNat = (s.getV x).toNat / 100 ∧ (t.mem.byteAt (a + 1)).toNat = (s.getV x).toNat / 10 % 10 ∧
        (t.mem.byteAt (a + 2)).toNat = (s.getV x).toNat % 10 ∧ SameMemoryOutside a 3 s t

/-- `LD [I], Vx` stores `V[0]` to `V[x]` at `I` to `I + x`, where all exist; every byte outside them reads as before, and `I` and
the registers are unchanged (base and order are the spec's D16, that `I` stays its D15). -/
def Obligations.StoreRegisterBlock : Prop :=
  ∀ (x : Reg) (s : State), s.mem.wf = true → s.i.toNat + x.val ≤ 0xFFF →
    ∃ t, exec (.storeRegs x) s = .next t ∧ t.pc = s.pc + 2 ∧ SameBut [.memory, .counter] s t ∧
      ∀ a, s.dataAddr = a →
        (∀ r : Reg, r.val ≤ x.val → t.mem.byteAt (a + r.val) = s.getV r) ∧ SameMemoryOutside a (x.val + 1) s t

/-- `LD Vx, [I]` loads `V[0]` to `V[x]` from `I` to `I + x`, where all exist; the registers above `x`, memory and `I` are unchanged
(base and order are the spec's D16, that `I` stays its D15). -/
def Obligations.LoadRegisterBlock : Prop :=
  ∀ (x : Reg) (s : State), s.i.toNat + x.val ≤ 0xFFF →
    ∃ t, exec (.loadRegs x) s = .next t ∧ t.pc = s.pc + 2 ∧ SameBut [.registers, .counter] s t ∧
      ∀ r : Reg, t.getV r = if r.val ≤ x.val then s.mem.byteAt (s.i.toNat + r.val) else s.getV r

/-! ### Arithmetic and logic -/

/-- `ADD Vx, byte` adds the immediate to `V[x]` modulo 256; the carry is lost and no flag is written (that `VF` stays is the spec's
D8). -/
def Obligations.AddImmediateWraps : Prop :=
  ∀ (x : Reg) (kk : Byte) (s : State), ∃ t, exec (.addByte x kk) s = .next t ∧
    WritesOnly x (BitVec.ofNat 8 (((s.getV x).toNat + kk.toNat) % 256)) s t

/-- `OR`, `AND`, `XOR` write to each bit of `V[x]` the operation on that bit of `V[x]` and `V[y]`; `VF` is not written
(the spec's D8). -/
def Obligations.LogicIsBitwise : Prop :=
  ∀ (x y : Reg) (s : State),
    (∃ t b, exec (.orReg x y) s = .next t ∧ WritesOnly x b s t ∧
      ∀ k, k < 8 → b.getLsbD k = ((s.getV x).getLsbD k || (s.getV y).getLsbD k)) ∧
    (∃ t b, exec (.andReg x y) s = .next t ∧ WritesOnly x b s t ∧
      ∀ k, k < 8 → b.getLsbD k = ((s.getV x).getLsbD k && (s.getV y).getLsbD k)) ∧
    (∃ t b, exec (.xorReg x y) s = .next t ∧ WritesOnly x b s t ∧
      ∀ k, k < 8 → b.getLsbD k = ((s.getV x).getLsbD k ^^ (s.getV y).getLsbD k))

/-- `ADD Vx, Vy` adds modulo 256, and `VF` is 1 if the true sum exceeds 255, else 0, written last (the order is the spec's D7). -/
def Obligations.AddRegisterSetsCarry : Prop :=
  ∀ (x y : Reg) (s : State), ∃ t, exec (.addReg x y) s = .next t ∧
    WritesWithFlag x (BitVec.ofNat 8 (((s.getV x).toNat + (s.getV y).toNat) % 256))
      ((s.getV x).toNat + (s.getV y).toNat > 255) s t

/-- `SUB` writes `V[x] - V[y]` and `SUBN` writes `V[y] - V[x]`, modulo 256, to `V[x]`; `VF` is 1 if the minuend is at least the
subtrahend, else 0, written last (the order is the spec's D7; that `SUBN` is the reversed subtraction is from general
knowledge). -/
def Obligations.SubtractSetsNoBorrow : Prop :=
  ∀ (x y : Reg) (s : State),
    (∃ t, exec (.subReg x y) s = .next t ∧
      WritesWithFlag x (BitVec.ofNat 8 (((s.getV x).toNat + 256 - (s.getV y).toNat) % 256))
        ((s.getV x).toNat ≥ (s.getV y).toNat) s t) ∧
    (∃ t, exec (.subnReg x y) s = .next t ∧
      WritesWithFlag x (BitVec.ofNat 8 (((s.getV y).toNat + 256 - (s.getV x).toNat) % 256))
        ((s.getV y).toNat ≥ (s.getV x).toNat) s t)

/-- `SHR` halves `V[x]` and puts the old bit 0 in `VF`, `SHL` doubles it modulo 256 and puts the old bit 7 in `VF`, written last; for
every `y`, which is ignored (the order is the spec's D7). -/
def Obligations.ShiftsMoveOneBitInPlace : Prop :=
  ∀ (x y : Reg) (s : State),
    (∃ t, exec (.shr x y) s = .next t ∧
      WritesWithFlag x (BitVec.ofNat 8 ((s.getV x).toNat / 2)) ((s.getV x).toNat % 2 = 1) s t) ∧
    (∃ t, exec (.shl x y) s = .next t ∧
      WritesWithFlag x (BitVec.ofNat 8 (2 * (s.getV x).toNat % 256)) ((s.getV x).toNat ≥ 128) s t)

/-! ### Random, display, SYS -/

/-- `RND Vx, byte` writes a draw ANDed with the immediate: bit by bit the draw under the mask and 0 outside it; one draw is
consumed. The statement holds for whatever the draw is (the spec's D25; log entry 3). -/
def Obligations.RandomIsMaskedDraw : Prop :=
  ∀ (x : Reg) (kk : Byte) (s : State), ∃ t, exec (.rnd x kk) s = .next t ∧ t.draws = s.draws + 1 ∧
    (∀ k, k < 8 → (t.getV x).getLsbD k = (kk.getLsbD k && (Config.rndByte s.draws).getLsbD k)) ∧
    SameRegistersBut [x] s t ∧ t.pc = s.pc + 2 ∧ SameBut [.registers, .counter, .draws] s t

/-- `DRW Vx, Vy, n`, where its rows exist, inverts exactly the pixels under set sprite bits, each wrapped on both axes; `VF` is 1 if
one of them was set before and 0 otherwise, and `SendDraw` is emitted; `n = 0` is among the cases (the spec's D17). -/
def Obligations.DrawTogglesSpritePixels : Prop :=
  ∀ (x y : Reg) (n : Fin 16) (s : State), n.val = 0 ∨ s.i.toNat + n.val - 1 ≤ 0xFFF →
    ∃ t, exec (.drw x y n) s = .next t ∧
      (∀ px py, (SpriteCovers x y n s px py → pixelAt t px py = !pixelAt s px py) ∧
        (¬ SpriteCovers x y n s px py → pixelAt t px py = pixelAt s px py)) ∧
      ((∃ px py, SpriteCovers x y n s px py ∧ pixelAt s px py = true) → t.getV VF = 1) ∧
      ((¬ ∃ px py, SpriteCovers x y n s px py ∧ pixelAt s px py = true) → t.getV VF = 0) ∧
      SameRegistersBut [VF] s t ∧ t.pc = s.pc + 2 ∧ t.out = s.out ++ [.sendDraw] ∧
      SameBut [.registers, .pixels, .counter, .commands] s t

/-- Drawing the same sprite twice at the same place restores the pixels; where the screen was clear, the first draw leaves `VF` 0 and
the second sets it to 1 exactly if some bit of the sprite is set. The coordinates are in registers other than `VF`, which the first
draw writes (the property of the spec's 95_test_vectors.md L1.4). -/
def Obligations.DrawTwiceRestoresPixels : Prop :=
  ∀ (x y : Reg) (n : Fin 16) (s : State), x ≠ VF → y ≠ VF → n.val = 0 ∨ s.i.toNat + n.val - 1 ≤ 0xFFF →
    ∃ t u, exec (.drw x y n) s = .next t ∧ exec (.drw x y n) t = .next u ∧
      (∀ px py, pixelAt u px py = pixelAt s px py) ∧
      ((∀ px py, pixelAt s px py = false) → t.getV VF = 0 ∧
        (u.getV VF = 1 ↔ ∃ r, r < n.val ∧ s.mem.byteAt (s.i.toNat + r) ≠ 0))

/-- `CLS` sets every pixel false and emits `SendClearDisplay`; `VF` and every other register stay (that it clears the core's own
buffer is the spec's D18). -/
def Obligations.ClearScreen : Prop :=
  ∀ s : State, ∃ t, exec .cls s = .next t ∧ (∀ k, t.fb.at k = false) ∧ t.out = s.out ++ [.sendClearDisplay] ∧
    t.pc = s.pc + 2 ∧ SameBut [.pixels, .counter, .commands] s t

/-- `SYS addr` raises `DecodeFailure`, always, with its word and its address, and changes nothing else (the spec's D5). -/
def Obligations.SysRaisesDecodeFailure : Prop :=
  ∀ (nnn : Addr) (s : State), ∃ t, exec (.sysAddr nnn) s = .next t ∧ t.halted = true ∧
    t.fault.kind = .decodeFailure ∧ t.fault.instr.toNat = nnn.toNat ∧ t.fault.addr = s.pc ∧
    SameBut [.halted, .faultRecord] s t
end

