-- ==== Sys2Proof/Laws/Decode.lean ====
section
/-!
SUPPORT. Words and fields as numbers: what each format builds and each field reads (spec/30_encoding.md R61, R62),
and decoding of a word laid out as bytes (R46).
-/

namespace Sys2Proof

/-! ### Formats as numbers -/

theorem toNat_append_eq {m n : Nat} (a : BitVec m) (b : BitVec n) : (a ++ b).toNat = a.toNat * 2 ^ n + b.toNat := by
  rw [BitVec.toNat_append, ← Nat.shiftLeft_add_eq_or_of_lt b.isLt, Nat.shiftLeft_eq]

theorem formatAddr_toNat (f : BitVec 4) (nnn : Addr) : (formatAddr f nnn).toNat = f.toNat * 4096 + nnn.toNat :=
  toNat_append_eq f nnn

theorem formatXKK_toNat (f : BitVec 4) (x : Reg) (kk : Byte) :
    (formatXKK f x kk).toNat = f.toNat * 4096 + x.val * 256 + kk.toNat := by
  refine (toNat_append_eq (f ++ BitVec.ofFin (w := 4) x) kk).trans ?_
  rw [toNat_append_eq]
  show (f.toNat * 16 + x.val) * 256 + kk.toNat = _
  omega

theorem formatXYN_toNat (f : BitVec 4) (x y n : Fin 16) :
    (formatXYN f x y n).toNat = f.toNat * 4096 + x.val * 256 + y.val * 16 + n.val := by
  refine (toNat_append_eq (f ++ BitVec.ofFin (w := 4) x ++ BitVec.ofFin (w := 4) y) (BitVec.ofFin (w := 4) n)).trans ?_
  rw [toNat_append_eq, toNat_append_eq]
  show ((f.toNat * 16 + x.val) * 16 + y.val) * 16 + n.val = _
  omega

theorem wordOfBytes_toNat (hi lo : Byte) : (wordOfBytes hi lo).toNat = hi.toNat * 256 + lo.toNat := toNat_append_eq hi lo

/-! ### Fields as numbers -/

theorem extractLsb'_toNat_eq {n : Nat} (s l : Nat) (w : BitVec n) : (w.extractLsb' s l).toNat = w.toNat / 2 ^ s % 2 ^ l := by
  rw [BitVec.extractLsb'_toNat, Nat.shiftRight_eq_div_pow]

theorem fieldFam_toNat (w : Word) : (fieldFam w).toNat = w.toNat / 4096 := by
  rw [fieldFam, extractLsb'_toNat_eq]; omega

theorem fieldX_val (w : Word) : (fieldX w).val = w.toNat / 256 % 16 := extractLsb'_toNat_eq 8 4 w

theorem fieldY_val (w : Word) : (fieldY w).val = w.toNat / 16 % 16 := extractLsb'_toNat_eq 4 4 w

theorem fieldN_val (w : Word) : (fieldN w).val = w.toNat % 16 := by
  have := extractLsb'_toNat_eq 0 4 w
  rw [Nat.pow_zero, Nat.div_one] at this; exact this

theorem fieldKK_toNat (w : Word) : (fieldKK w).toNat = w.toNat % 256 := by
  rw [fieldKK, extractLsb'_toNat_eq, Nat.pow_zero, Nat.div_one]; rfl

theorem fieldNNN_toNat (w : Word) : (fieldNNN w).toNat = w.toNat % 4096 := by
  rw [fieldNNN, extractLsb'_toNat_eq, Nat.pow_zero, Nat.div_one]; rfl

/-! ### Fields of a word built in a format -/

@[simp] theorem fieldFam_formatAddr (f : BitVec 4) (nnn : Addr) : fieldFam (formatAddr f nnn) = f := by
  apply BitVec.eq_of_toNat_eq; rw [fieldFam_toNat, formatAddr_toNat]; omega

@[simp] theorem fieldNNN_formatAddr (f : BitVec 4) (nnn : Addr) : fieldNNN (formatAddr f nnn) = nnn := by
  apply BitVec.eq_of_toNat_eq; rw [fieldNNN_toNat, formatAddr_toNat]; omega

@[simp] theorem fieldFam_formatXKK (f : BitVec 4) (x : Reg) (kk : Byte) : fieldFam (formatXKK f x kk) = f := by
  apply BitVec.eq_of_toNat_eq; rw [fieldFam_toNat, formatXKK_toNat]; omega

@[simp] theorem fieldX_formatXKK (f : BitVec 4) (x : Reg) (kk : Byte) : fieldX (formatXKK f x kk) = x := by
  apply Fin.ext; rw [fieldX_val, formatXKK_toNat]; omega

@[simp] theorem fieldKK_formatXKK (f : BitVec 4) (x : Reg) (kk : Byte) : fieldKK (formatXKK f x kk) = kk := by
  apply BitVec.eq_of_toNat_eq; rw [fieldKK_toNat, formatXKK_toNat]; omega

@[simp] theorem fieldFam_formatXYN (f : BitVec 4) (x y n : Fin 16) : fieldFam (formatXYN f x y n) = f := by
  apply BitVec.eq_of_toNat_eq; rw [fieldFam_toNat, formatXYN_toNat]; omega

@[simp] theorem fieldX_formatXYN (f : BitVec 4) (x y n : Fin 16) : fieldX (formatXYN f x y n) = x := by
  apply Fin.ext; rw [fieldX_val, formatXYN_toNat]; omega

@[simp] theorem fieldY_formatXYN (f : BitVec 4) (x y n : Fin 16) : fieldY (formatXYN f x y n) = y := by
  apply Fin.ext; rw [fieldY_val, formatXYN_toNat]; omega

@[simp] theorem fieldN_formatXYN (f : BitVec 4) (x y n : Fin 16) : fieldN (formatXYN f x y n) = n := by
  apply Fin.ext; rw [fieldN_val, formatXYN_toNat]; omega

/-! ### A word is determined by its fields -/

theorem formatAddr_fields (w : Word) : formatAddr (fieldFam w) (fieldNNN w) = w := by
  apply BitVec.eq_of_toNat_eq; rw [formatAddr_toNat, fieldFam_toNat, fieldNNN_toNat]; omega

theorem formatXKK_fields (w : Word) : formatXKK (fieldFam w) (fieldX w) (fieldKK w) = w := by
  apply BitVec.eq_of_toNat_eq; rw [formatXKK_toNat, fieldFam_toNat, fieldX_val, fieldKK_toNat]; omega

theorem formatXYN_fields (w : Word) : formatXYN (fieldFam w) (fieldX w) (fieldY w) (fieldN w) = w := by
  apply BitVec.eq_of_toNat_eq; rw [formatXYN_toNat, fieldFam_toNat, fieldX_val, fieldY_val, fieldN_val]; omega

/-! ### A field from its value, as the decoder's matches give it -/

theorem fieldFam_eq {w : Word} {n : Nat} (hn : n < 16) (h : (fieldFam w).toNat = n) : fieldFam w = BitVec.ofNat 4 n := by
  apply BitVec.eq_of_toNat_eq; rw [h, BitVec.toNat_ofNat]; omega

theorem fieldN_eq {w : Word} {n : Nat} (hn : n < 16) (h : (fieldN w).val = n) : fieldN w = ⟨n, hn⟩ := Fin.ext h

theorem fieldKK_eq {w : Word} {n : Nat} (hn : n < 256) (h : (fieldKK w).toNat = n) : fieldKK w = BitVec.ofNat 8 n := by
  apply BitVec.eq_of_toNat_eq; rw [h, BitVec.toNat_ofNat]; omega

/-! ### Bytes and words -/

/-- The two bytes of a word in memory order assemble to the word (R46). -/
theorem wordOfBytes_bytesOfWord (w : Word) : wordOfBytes (w.extractLsb' 8 8) (w.extractLsb' 0 8) = w := by
  apply BitVec.eq_of_toNat_eq; rw [wordOfBytes_toNat, extractLsb'_toNat_eq, extractLsb'_toNat_eq]; omega

/-- Decoding the bytes of a word is decoding the word. -/
theorem decodeBytes_bytesOfWord (w : Word) (rest : List Byte) :
    decodeBytes (bytesOfWord w ++ rest) = (decode w).map fun i => (i, rest) := by
  simp only [bytesOfWord, List.cons_append, List.nil_append, decodeBytes, wordOfBytes_bytesOfWord]
  cases decode w <;> rfl

/-- The pairs of the opcode map are exactly the pairs with an instruction, and the pair determines it (R76). -/
theorem Instr.ofPair_pair (i : Instr) : Instr.ofPair i.pair.1 i.pair.2 = .ok i := by cases i <;> rfl

/-- A pair with an instruction is that instruction's pair. -/
theorem Instr.pair_of_ofPair {op : Operation} {pat : OperandPattern} {i : Instr} (h : Instr.ofPair op pat = .ok i) :
    i.pair = (op, pat) := by
  cases op <;> cases pat <;> cases h <;> rfl

end Sys2Proof
end

