-- ==== Sys2Proof/Laws/Memory.lean ====
section
/-!
SUPPORT. Memory: reading after writing, and every write keeps the canonical form (spec/20_memory.md R45, R47, R50).
-/

namespace Sys2Proof.Machine

@[simp] theorem Memory.byteAt_nil (a : Nat) : Memory.byteAt [] a = 0 := rfl

theorem Memory.byteAt_cons (k : Nat) (b : Byte) (m : Memory) (a : Nat) :
    Memory.byteAt ((k, b) :: m) a = if k = a then b else m.byteAt a := rfl

theorem Memory.risingFrom_cons (lo k : Nat) (b : Byte) (m : Memory) :
    Memory.risingFrom lo ((k, b) :: m) = true ↔ lo ≤ k ∧ k < 4096 ∧ b ≠ 0 ∧ Memory.risingFrom (k + 1) m = true := by
  simp [Memory.risingFrom, and_assoc]

theorem Memory.risingFrom_mono {lo lo' : Nat} (h : lo' ≤ lo) :
    {m : Memory} → Memory.risingFrom lo m = true → Memory.risingFrom lo' m = true
  | [], _ => rfl
  | (k, b) :: m, hm => by
    rw [risingFrom_cons] at hm ⊢
    exact ⟨by omega, hm.2⟩

/-- Below the first listed address every byte is the unlisted one. -/
theorem Memory.byteAt_below {lo a : Nat} (h : a < lo) :
    {m : Memory} → Memory.risingFrom lo m = true → m.byteAt a = 0
  | [], _ => rfl
  | (k, b) :: m, hm => by
    rw [risingFrom_cons] at hm
    rw [byteAt_cons, if_neg (by omega)]
    exact byteAt_below (by omega) hm.2.2.2

theorem Memory.byteAt_consByte {k : Nat} (b : Byte) {m : Memory} (hm : Memory.risingFrom (k + 1) m = true) (a : Nat) :
    (Memory.consByte k b m).byteAt a = if a = k then b else m.byteAt a := by
  unfold consByte
  by_cases hb : b = unlistedByte
  · by_cases ha : a = k
    · subst ha; simp [hb, byteAt_below (Nat.lt_succ_self a) hm]
    · simp [hb, ha]
  · rw [if_neg hb, byteAt_cons]; simp only [eq_comm]

theorem Memory.risingFrom_consByte {lo k : Nat} (b : Byte) {m : Memory} (hk : lo ≤ k) (hk' : k < 4096)
    (hm : Memory.risingFrom (k + 1) m = true) : Memory.risingFrom lo (Memory.consByte k b m) = true := by
  unfold consByte
  split
  · exact risingFrom_mono (by omega) hm
  · rw [risingFrom_cons]; exact ⟨hk, hk', ‹_›, hm⟩

/-- A store keeps the canonical form. -/
theorem Memory.risingFrom_store {a : Nat} (ha : a < 4096) (b : Byte) : {lo : Nat} → lo ≤ a →
    {m : Memory} → Memory.risingFrom lo m = true → Memory.risingFrom lo (m.store a b) = true
  | lo, hlo, [], _ => risingFrom_consByte b hlo ha rfl
  | lo, hlo, (k, c) :: m, hm => by
    have hm' := (risingFrom_cons ..).mp hm
    unfold store
    split
    · exact risingFrom_consByte b hlo ha ((risingFrom_cons ..).mpr ⟨by omega, hm'.2⟩)
    · split
      · subst a; exact risingFrom_consByte b hlo ha hm'.2.2.2
      · exact (risingFrom_cons ..).mpr ⟨hm'.1, hm'.2.1, hm'.2.2.1, risingFrom_store ha b (by omega) hm'.2.2.2⟩

/-- Reading after a store: the stored byte there, the old one elsewhere. -/
theorem Memory.byteAt_store {a : Nat} (b : Byte) (a' : Nat) : {lo : Nat} →
    {m : Memory} → Memory.risingFrom lo m = true → (m.store a b).byteAt a' = if a' = a then b else m.byteAt a'
  | _, [], _ => byteAt_consByte b rfl a'
  | _, (k, c) :: m, hm => by
    have hm' := (risingFrom_cons ..).mp hm
    unfold store
    split
    · exact byteAt_consByte b ((risingFrom_cons ..).mpr ⟨by omega, hm'.2⟩) a'
    · split
      · subst a
        rw [byteAt_consByte b hm'.2.2.2, byteAt_cons]
        by_cases h : a' = k <;> simp [h, eq_comm]
      · rw [byteAt_cons, byteAt_cons, byteAt_store b a' hm'.2.2.2]
        by_cases h : k = a'
        · subst h; simp; omega
        · simp [h]

theorem Memory.wf_store {m : Memory} {a : Nat} (hm : m.wf = true) (ha : a < 4096) (b : Byte) : (m.store a b).wf = true :=
  risingFrom_store ha b (Nat.zero_le a) hm

/-- A block store keeps the canonical form. -/
theorem Memory.wf_storeBlock : {bs : List Byte} → {base : Nat} → {m : Memory} → m.wf = true →
    bs = [] ∨ base + bs.length ≤ 4096 → (m.storeBlock base bs).wf = true
  | [], _, _, hm, _ => hm
  | b :: bs, base, m, hm, h => by
    have h : base + (bs.length + 1) ≤ 4096 := by simpa using h
    unfold storeBlock
    exact wf_storeBlock (wf_store hm (by omega) b) (.inr (by omega))

/-- Reading after a block store: the stored byte inside the block, the old one outside. -/
theorem Memory.byteAt_storeBlock (a : Nat) : {bs : List Byte} → {base : Nat} → {m : Memory} → m.wf = true →
    bs = [] ∨ base + bs.length ≤ 4096 →
    (m.storeBlock base bs).byteAt a = if base ≤ a ∧ a < base + bs.length then bs.getD (a - base) 0 else m.byteAt a
  | [], base, m, _, _ => by
    rw [storeBlock, if_neg (by simp only [List.length_nil]; omega)]
  | b :: bs, base, m, hm, h => by
    have h : base + (bs.length + 1) ≤ 4096 := by simpa using h
    unfold storeBlock
    rw [byteAt_storeBlock a (wf_store hm (by omega) b) (.inr (by omega)), byteAt_store b a hm]
    simp only [List.length_cons]
    by_cases h1 : a = base
    · subst h1; simp
    · by_cases h2 : base + 1 ≤ a ∧ a < base + 1 + bs.length
      · rw [if_pos h2, if_pos (by omega)]
        obtain ⟨d, hd⟩ : ∃ d, a - base = d + 1 := ⟨a - base - 1, by omega⟩
        rw [hd, List.getD_cons_succ]; congr 1; omega
      · rw [if_neg h2, if_neg h1, if_neg (by omega)]

@[simp] theorem Memory.length_readBlock (m : Memory) : (n base : Nat) → (m.readBlock base n).length = n
  | 0, _ => rfl
  | n + 1, base => by simp [readBlock, length_readBlock m n]

/-- The r-th byte of a block read is the byte at `base + r`. -/
theorem Memory.getD_readBlock (m : Memory) : (n base r : Nat) → r < n → (m.readBlock base n).getD r 0 = m.byteAt (base + r)
  | n + 1, base, 0, _ => rfl
  | n + 1, base, r + 1, h => by
    rw [readBlock, List.getD_cons_succ, getD_readBlock m n (base + 1) r (by omega)]; congr 1; omega

/-- Memories in canonical form that read alike are the same list. -/
theorem Memory.ext_of_risingFrom : {m m' : Memory} → {lo : Nat} → Memory.risingFrom lo m = true →
    Memory.risingFrom lo m' = true → (∀ a, m.byteAt a = m'.byteAt a) → m = m'
  | [], [], _, _, _, _ => rfl
  | [], (k, b) :: m', _, _, h', e => by
    have h := (risingFrom_cons ..).mp h'
    have := e k
    simp [byteAt_cons] at this
    exact absurd this.symm h.2.2.1
  | (k, b) :: m, [], _, h, _, e => by
    have h := (risingFrom_cons ..).mp h
    have := e k
    simp [byteAt_cons] at this
    exact absurd this h.2.2.1
  | (k, b) :: m, (k', b') :: m', _, h, h', e => by
    have h := (risingFrom_cons ..).mp h
    have h' := (risingFrom_cons ..).mp h'
    have hk : k = k' := by
      rcases lt_trichotomy k k' with hlt | heq | hgt
      · have := e k
        rw [byteAt_cons, byteAt_cons, if_pos rfl, if_neg (by omega), byteAt_below (by omega) h'.2.2.2] at this
        exact absurd this h.2.2.1
      · exact heq
      · have := e k'
        rw [byteAt_cons, byteAt_cons, if_pos rfl, if_neg (by omega), byteAt_below (by omega) h.2.2.2] at this
        exact absurd this.symm h'.2.2.1
    subst hk
    have hb : b = b' := by simpa [byteAt_cons] using e k
    subst hb
    have : m = m' := ext_of_risingFrom h.2.2.2 h'.2.2.2 fun a => by
      by_cases ha : k = a
      · subst ha
        rw [byteAt_below (Nat.lt_succ_self k) h.2.2.2, byteAt_below (Nat.lt_succ_self k) h'.2.2.2]
      · simpa [byteAt_cons, ha] using e a
    rw [this]

theorem blockInRange_iff (base n : Nat) : blockInRange base n = true ↔ n = 0 ∨ base + n ≤ 4096 := by
  simp [blockInRange]

/-- What a block read can answer. -/
theorem memReadBlock_eq_some {m : Memory} {base n : Nat} {bs : List Byte} :
    memReadBlock m base n = some bs ↔ (n = 0 ∨ base + n ≤ 4096) ∧ bs = m.readBlock base n := by
  rw [← blockInRange_iff]; unfold memReadBlock; split <;> simp [*, eq_comm]

theorem memReadBlock_eq_none {m : Memory} {base n : Nat} :
    memReadBlock m base n = none ↔ n ≠ 0 ∧ 4096 < base + n := by
  have := blockInRange_iff base n
  unfold memReadBlock; split <;> simp_all; omega

/-- What a block write can answer. -/
theorem memWriteBlock_eq_some {m m' : Memory} {base : Nat} {bs : List Byte} :
    memWriteBlock m base bs = some m' ↔ (bs = [] ∨ base + bs.length ≤ 4096) ∧ m' = m.storeBlock base bs := by
  rw [← List.length_eq_zero_iff, ← blockInRange_iff]; unfold memWriteBlock; split <;> simp [*, eq_comm]

theorem memWriteBlock_eq_none {m : Memory} {base : Nat} {bs : List Byte} :
    memWriteBlock m base bs = none ↔ bs ≠ [] ∧ 4096 < base + bs.length := by
  have := blockInRange_iff base bs.length
  rw [ne_eq, ← List.length_eq_zero_iff]
  unfold memWriteBlock
  split <;> rename_i h
  · have := this.mp h; simp only [reduceCtorEq, false_iff]; omega
  · have := mt this.mpr h; simp only [true_iff]; omega

/-- A block write keeps the canonical form. -/
theorem memWriteBlock_wf {m m' : Memory} {base : Nat} {bs : List Byte} (hm : m.wf = true)
    (h : memWriteBlock m base bs = some m') : m'.wf = true := by
  obtain ⟨hr, rfl⟩ := memWriteBlock_eq_some.mp h
  exact Memory.wf_storeBlock hm hr

/-- A single write keeps the canonical form. -/
theorem memWrite_wf {m m' : Memory} {a : Nat} {b : Byte} (hm : m.wf = true) (h : memWrite m a b = some m') : m'.wf = true := by
  unfold memWrite at h
  split at h
  · cases h; exact Memory.wf_store hm (by omega) b
  · cases h

/-- Loading bytes through the load port keeps the canonical form where they fit. -/
theorem State.loadBytes_wf {s : State} {base : Nat} {bs : List Byte} (hm : s.mem.wf = true)
    (h : bs = [] ∨ base + bs.length ≤ 4096) : (s.loadBytes base bs).mem.wf = true :=
  Memory.wf_storeBlock hm h

/-- Placing a word for the next fetch keeps the canonical form. -/
theorem State.withFetchWord_wf {s : State} (hm : s.mem.wf = true) (nbits w : Nat) : (s.withFetchWord nbits w).mem.wf = true := by
  refine Memory.wf_storeBlock hm (.inr ?_)
  show (if s.pc.toNat < 0xFFF then s.pc.toNat else 0x200) + 2 ≤ 4096
  split <;> omega

theorem memReset_wf : State.reset.mem.wf = true := rfl

end Sys2Proof.Machine
end

