-- ==== Sys2Proof/Laws/State.lean ====
section
/-!
SUPPORT. For every update of the state and every field, what the field is after it: true by definition, so that no
proof unfolds a record update.
-/

namespace Sys2Proof.Machine

/-! ### setMem -/

@[simp] theorem State.setMem_v (m : Memory) (s : State) : (s.setMem m).v = s.v := rfl
@[simp] theorem State.setMem_i (m : Memory) (s : State) : (s.setMem m).i = s.i := rfl
@[simp] theorem State.setMem_pc (m : Memory) (s : State) : (s.setMem m).pc = s.pc := rfl
@[simp] theorem State.setMem_stack (m : Memory) (s : State) : (s.setMem m).stack = s.stack := rfl
@[simp] theorem State.setMem_sp (m : Memory) (s : State) : (s.setMem m).sp = s.sp := rfl
@[simp] theorem State.setMem_dt (m : Memory) (s : State) : (s.setMem m).dt = s.dt := rfl
@[simp] theorem State.setMem_st (m : Memory) (s : State) : (s.setMem m).st = s.st := rfl
@[simp] theorem State.setMem_mem (m : Memory) (s : State) : (s.setMem m).mem = m := rfl
@[simp] theorem State.setMem_fb (m : Memory) (s : State) : (s.setMem m).fb = s.fb := rfl
@[simp] theorem State.setMem_key (m : Memory) (s : State) : (s.setMem m).key = s.key := rfl
@[simp] theorem State.setMem_kw (m : Memory) (s : State) : (s.setMem m).kw = s.kw := rfl
@[simp] theorem State.setMem_halted (m : Memory) (s : State) : (s.setMem m).halted = s.halted := rfl
@[simp] theorem State.setMem_fault (m : Memory) (s : State) : (s.setMem m).fault = s.fault := rfl
@[simp] theorem State.setMem_keyInput (m : Memory) (s : State) : (s.setMem m).keyInput = s.keyInput := rfl
@[simp] theorem State.setMem_draws (m : Memory) (s : State) : (s.setMem m).draws = s.draws := rfl
@[simp] theorem State.setMem_out (m : Memory) (s : State) : (s.setMem m).out = s.out := rfl
@[simp] theorem State.getV_setMem (m : Memory) (r : Reg) (s : State) : (s.setMem m).getV r = s.getV r := rfl

/-! ### setV -/

@[simp] theorem State.setV_v (x : Reg) (b : Byte) (s : State) : (s.setV x b).v = s.v.set x b := rfl
@[simp] theorem State.setV_i (x : Reg) (b : Byte) (s : State) : (s.setV x b).i = s.i := rfl
@[simp] theorem State.setV_pc (x : Reg) (b : Byte) (s : State) : (s.setV x b).pc = s.pc := rfl
@[simp] theorem State.setV_stack (x : Reg) (b : Byte) (s : State) : (s.setV x b).stack = s.stack := rfl
@[simp] theorem State.setV_sp (x : Reg) (b : Byte) (s : State) : (s.setV x b).sp = s.sp := rfl
@[simp] theorem State.setV_dt (x : Reg) (b : Byte) (s : State) : (s.setV x b).dt = s.dt := rfl
@[simp] theorem State.setV_st (x : Reg) (b : Byte) (s : State) : (s.setV x b).st = s.st := rfl
@[simp] theorem State.setV_mem (x : Reg) (b : Byte) (s : State) : (s.setV x b).mem = s.mem := rfl
@[simp] theorem State.setV_fb (x : Reg) (b : Byte) (s : State) : (s.setV x b).fb = s.fb := rfl
@[simp] theorem State.setV_key (x : Reg) (b : Byte) (s : State) : (s.setV x b).key = s.key := rfl
@[simp] theorem State.setV_kw (x : Reg) (b : Byte) (s : State) : (s.setV x b).kw = s.kw := rfl
@[simp] theorem State.setV_halted (x : Reg) (b : Byte) (s : State) : (s.setV x b).halted = s.halted := rfl
@[simp] theorem State.setV_fault (x : Reg) (b : Byte) (s : State) : (s.setV x b).fault = s.fault := rfl
@[simp] theorem State.setV_keyInput (x : Reg) (b : Byte) (s : State) : (s.setV x b).keyInput = s.keyInput := rfl
@[simp] theorem State.setV_draws (x : Reg) (b : Byte) (s : State) : (s.setV x b).draws = s.draws := rfl
@[simp] theorem State.setV_out (x : Reg) (b : Byte) (s : State) : (s.setV x b).out = s.out := rfl

/-! ### setRegs -/

@[simp] theorem State.setRegs_v (bs : List Byte) (s : State) : (s.setRegs bs).v = writeRegsFrom s.v 0 bs := rfl
@[simp] theorem State.setRegs_i (bs : List Byte) (s : State) : (s.setRegs bs).i = s.i := rfl
@[simp] theorem State.setRegs_pc (bs : List Byte) (s : State) : (s.setRegs bs).pc = s.pc := rfl
@[simp] theorem State.setRegs_stack (bs : List Byte) (s : State) : (s.setRegs bs).stack = s.stack := rfl
@[simp] theorem State.setRegs_sp (bs : List Byte) (s : State) : (s.setRegs bs).sp = s.sp := rfl
@[simp] theorem State.setRegs_dt (bs : List Byte) (s : State) : (s.setRegs bs).dt = s.dt := rfl
@[simp] theorem State.setRegs_st (bs : List Byte) (s : State) : (s.setRegs bs).st = s.st := rfl
@[simp] theorem State.setRegs_mem (bs : List Byte) (s : State) : (s.setRegs bs).mem = s.mem := rfl
@[simp] theorem State.setRegs_fb (bs : List Byte) (s : State) : (s.setRegs bs).fb = s.fb := rfl
@[simp] theorem State.setRegs_key (bs : List Byte) (s : State) : (s.setRegs bs).key = s.key := rfl
@[simp] theorem State.setRegs_kw (bs : List Byte) (s : State) : (s.setRegs bs).kw = s.kw := rfl
@[simp] theorem State.setRegs_halted (bs : List Byte) (s : State) : (s.setRegs bs).halted = s.halted := rfl
@[simp] theorem State.setRegs_fault (bs : List Byte) (s : State) : (s.setRegs bs).fault = s.fault := rfl
@[simp] theorem State.setRegs_keyInput (bs : List Byte) (s : State) : (s.setRegs bs).keyInput = s.keyInput := rfl
@[simp] theorem State.setRegs_draws (bs : List Byte) (s : State) : (s.setRegs bs).draws = s.draws := rfl
@[simp] theorem State.setRegs_out (bs : List Byte) (s : State) : (s.setRegs bs).out = s.out := rfl

/-! ### setI -/

@[simp] theorem State.setI_v (a : Word) (s : State) : (s.setI a).v = s.v := rfl
@[simp] theorem State.setI_i (a : Word) (s : State) : (s.setI a).i = a := rfl
@[simp] theorem State.setI_pc (a : Word) (s : State) : (s.setI a).pc = s.pc := rfl
@[simp] theorem State.setI_stack (a : Word) (s : State) : (s.setI a).stack = s.stack := rfl
@[simp] theorem State.setI_sp (a : Word) (s : State) : (s.setI a).sp = s.sp := rfl
@[simp] theorem State.setI_dt (a : Word) (s : State) : (s.setI a).dt = s.dt := rfl
@[simp] theorem State.setI_st (a : Word) (s : State) : (s.setI a).st = s.st := rfl
@[simp] theorem State.setI_mem (a : Word) (s : State) : (s.setI a).mem = s.mem := rfl
@[simp] theorem State.setI_fb (a : Word) (s : State) : (s.setI a).fb = s.fb := rfl
@[simp] theorem State.setI_key (a : Word) (s : State) : (s.setI a).key = s.key := rfl
@[simp] theorem State.setI_kw (a : Word) (s : State) : (s.setI a).kw = s.kw := rfl
@[simp] theorem State.setI_halted (a : Word) (s : State) : (s.setI a).halted = s.halted := rfl
@[simp] theorem State.setI_fault (a : Word) (s : State) : (s.setI a).fault = s.fault := rfl
@[simp] theorem State.setI_keyInput (a : Word) (s : State) : (s.setI a).keyInput = s.keyInput := rfl
@[simp] theorem State.setI_draws (a : Word) (s : State) : (s.setI a).draws = s.draws := rfl
@[simp] theorem State.setI_out (a : Word) (s : State) : (s.setI a).out = s.out := rfl
@[simp] theorem State.getV_setI (a : Word) (r : Reg) (s : State) : (s.setI a).getV r = s.getV r := rfl

/-! ### setDT -/

@[simp] theorem State.setDT_v (b : Byte) (s : State) : (s.setDT b).v = s.v := rfl
@[simp] theorem State.setDT_i (b : Byte) (s : State) : (s.setDT b).i = s.i := rfl
@[simp] theorem State.setDT_pc (b : Byte) (s : State) : (s.setDT b).pc = s.pc := rfl
@[simp] theorem State.setDT_stack (b : Byte) (s : State) : (s.setDT b).stack = s.stack := rfl
@[simp] theorem State.setDT_sp (b : Byte) (s : State) : (s.setDT b).sp = s.sp := rfl
@[simp] theorem State.setDT_dt (b : Byte) (s : State) : (s.setDT b).dt = b := rfl
@[simp] theorem State.setDT_st (b : Byte) (s : State) : (s.setDT b).st = s.st := rfl
@[simp] theorem State.setDT_mem (b : Byte) (s : State) : (s.setDT b).mem = s.mem := rfl
@[simp] theorem State.setDT_fb (b : Byte) (s : State) : (s.setDT b).fb = s.fb := rfl
@[simp] theorem State.setDT_key (b : Byte) (s : State) : (s.setDT b).key = s.key := rfl
@[simp] theorem State.setDT_kw (b : Byte) (s : State) : (s.setDT b).kw = s.kw := rfl
@[simp] theorem State.setDT_halted (b : Byte) (s : State) : (s.setDT b).halted = s.halted := rfl
@[simp] theorem State.setDT_fault (b : Byte) (s : State) : (s.setDT b).fault = s.fault := rfl
@[simp] theorem State.setDT_keyInput (b : Byte) (s : State) : (s.setDT b).keyInput = s.keyInput := rfl
@[simp] theorem State.setDT_draws (b : Byte) (s : State) : (s.setDT b).draws = s.draws := rfl
@[simp] theorem State.setDT_out (b : Byte) (s : State) : (s.setDT b).out = s.out := rfl
@[simp] theorem State.getV_setDT (b : Byte) (r : Reg) (s : State) : (s.setDT b).getV r = s.getV r := rfl

/-! ### setST -/

@[simp] theorem State.setST_v (b : Byte) (s : State) : (s.setST b).v = s.v := rfl
@[simp] theorem State.setST_i (b : Byte) (s : State) : (s.setST b).i = s.i := rfl
@[simp] theorem State.setST_pc (b : Byte) (s : State) : (s.setST b).pc = s.pc := rfl
@[simp] theorem State.setST_stack (b : Byte) (s : State) : (s.setST b).stack = s.stack := rfl
@[simp] theorem State.setST_sp (b : Byte) (s : State) : (s.setST b).sp = s.sp := rfl
@[simp] theorem State.setST_dt (b : Byte) (s : State) : (s.setST b).dt = s.dt := rfl
@[simp] theorem State.setST_st (b : Byte) (s : State) : (s.setST b).st = b := rfl
@[simp] theorem State.setST_mem (b : Byte) (s : State) : (s.setST b).mem = s.mem := rfl
@[simp] theorem State.setST_fb (b : Byte) (s : State) : (s.setST b).fb = s.fb := rfl
@[simp] theorem State.setST_key (b : Byte) (s : State) : (s.setST b).key = s.key := rfl
@[simp] theorem State.setST_kw (b : Byte) (s : State) : (s.setST b).kw = s.kw := rfl
@[simp] theorem State.setST_halted (b : Byte) (s : State) : (s.setST b).halted = s.halted := rfl
@[simp] theorem State.setST_fault (b : Byte) (s : State) : (s.setST b).fault = s.fault := rfl
@[simp] theorem State.setST_keyInput (b : Byte) (s : State) : (s.setST b).keyInput = s.keyInput := rfl
@[simp] theorem State.setST_draws (b : Byte) (s : State) : (s.setST b).draws = s.draws := rfl
@[simp] theorem State.setST_out (b : Byte) (s : State) : (s.setST b).out = s.out := rfl
@[simp] theorem State.getV_setST (b : Byte) (r : Reg) (s : State) : (s.setST b).getV r = s.getV r := rfl

/-! ### waitForKey -/

@[simp] theorem State.waitForKey_v (x : Reg) (s : State) : (s.waitForKey x).v = s.v := rfl
@[simp] theorem State.waitForKey_i (x : Reg) (s : State) : (s.waitForKey x).i = s.i := rfl
@[simp] theorem State.waitForKey_pc (x : Reg) (s : State) : (s.waitForKey x).pc = s.pc := rfl
@[simp] theorem State.waitForKey_stack (x : Reg) (s : State) : (s.waitForKey x).stack = s.stack := rfl
@[simp] theorem State.waitForKey_sp (x : Reg) (s : State) : (s.waitForKey x).sp = s.sp := rfl
@[simp] theorem State.waitForKey_dt (x : Reg) (s : State) : (s.waitForKey x).dt = s.dt := rfl
@[simp] theorem State.waitForKey_st (x : Reg) (s : State) : (s.waitForKey x).st = s.st := rfl
@[simp] theorem State.waitForKey_mem (x : Reg) (s : State) : (s.waitForKey x).mem = s.mem := rfl
@[simp] theorem State.waitForKey_fb (x : Reg) (s : State) : (s.waitForKey x).fb = s.fb := rfl
@[simp] theorem State.waitForKey_key (x : Reg) (s : State) : (s.waitForKey x).key = s.key := rfl
@[simp] theorem State.waitForKey_kw (x : Reg) (s : State) : (s.waitForKey x).kw = ⟨true, x⟩ := rfl
@[simp] theorem State.waitForKey_halted (x : Reg) (s : State) : (s.waitForKey x).halted = s.halted := rfl
@[simp] theorem State.waitForKey_fault (x : Reg) (s : State) : (s.waitForKey x).fault = s.fault := rfl
@[simp] theorem State.waitForKey_keyInput (x : Reg) (s : State) : (s.waitForKey x).keyInput = s.keyInput := rfl
@[simp] theorem State.waitForKey_draws (x : Reg) (s : State) : (s.waitForKey x).draws = s.draws := rfl
@[simp] theorem State.waitForKey_out (x : Reg) (s : State) : (s.waitForKey x).out = s.out := rfl
@[simp] theorem State.getV_waitForKey (x : Reg) (r : Reg) (s : State) : (s.waitForKey x).getV r = s.getV r := rfl

/-! ### countDraw -/

@[simp] theorem State.countDraw_v (s : State) : s.countDraw.v = s.v := rfl
@[simp] theorem State.countDraw_i (s : State) : s.countDraw.i = s.i := rfl
@[simp] theorem State.countDraw_pc (s : State) : s.countDraw.pc = s.pc := rfl
@[simp] theorem State.countDraw_stack (s : State) : s.countDraw.stack = s.stack := rfl
@[simp] theorem State.countDraw_sp (s : State) : s.countDraw.sp = s.sp := rfl
@[simp] theorem State.countDraw_dt (s : State) : s.countDraw.dt = s.dt := rfl
@[simp] theorem State.countDraw_st (s : State) : s.countDraw.st = s.st := rfl
@[simp] theorem State.countDraw_mem (s : State) : s.countDraw.mem = s.mem := rfl
@[simp] theorem State.countDraw_fb (s : State) : s.countDraw.fb = s.fb := rfl
@[simp] theorem State.countDraw_key (s : State) : s.countDraw.key = s.key := rfl
@[simp] theorem State.countDraw_kw (s : State) : s.countDraw.kw = s.kw := rfl
@[simp] theorem State.countDraw_halted (s : State) : s.countDraw.halted = s.halted := rfl
@[simp] theorem State.countDraw_fault (s : State) : s.countDraw.fault = s.fault := rfl
@[simp] theorem State.countDraw_keyInput (s : State) : s.countDraw.keyInput = s.keyInput := rfl
@[simp] theorem State.countDraw_draws (s : State) : s.countDraw.draws = s.draws + 1 := rfl
@[simp] theorem State.countDraw_out (s : State) : s.countDraw.out = s.out := rfl
@[simp] theorem State.getV_countDraw (r : Reg) (s : State) : s.countDraw.getV r = s.getV r := rfl

/-! ### setPC -/

@[simp] theorem State.setPC_v (a : Word) (s : State) : (s.setPC a).v = s.v := rfl
@[simp] theorem State.setPC_i (a : Word) (s : State) : (s.setPC a).i = s.i := rfl
@[simp] theorem State.setPC_pc (a : Word) (s : State) : (s.setPC a).pc = a := rfl
@[simp] theorem State.setPC_stack (a : Word) (s : State) : (s.setPC a).stack = s.stack := rfl
@[simp] theorem State.setPC_sp (a : Word) (s : State) : (s.setPC a).sp = s.sp := rfl
@[simp] theorem State.setPC_dt (a : Word) (s : State) : (s.setPC a).dt = s.dt := rfl
@[simp] theorem State.setPC_st (a : Word) (s : State) : (s.setPC a).st = s.st := rfl
@[simp] theorem State.setPC_mem (a : Word) (s : State) : (s.setPC a).mem = s.mem := rfl
@[simp] theorem State.setPC_fb (a : Word) (s : State) : (s.setPC a).fb = s.fb := rfl
@[simp] theorem State.setPC_key (a : Word) (s : State) : (s.setPC a).key = s.key := rfl
@[simp] theorem State.setPC_kw (a : Word) (s : State) : (s.setPC a).kw = s.kw := rfl
@[simp] theorem State.setPC_halted (a : Word) (s : State) : (s.setPC a).halted = s.halted := rfl
@[simp] theorem State.setPC_fault (a : Word) (s : State) : (s.setPC a).fault = s.fault := rfl
@[simp] theorem State.setPC_keyInput (a : Word) (s : State) : (s.setPC a).keyInput = s.keyInput := rfl
@[simp] theorem State.setPC_draws (a : Word) (s : State) : (s.setPC a).draws = s.draws := rfl
@[simp] theorem State.setPC_out (a : Word) (s : State) : (s.setPC a).out = s.out := rfl
@[simp] theorem State.getV_setPC (a : Word) (r : Reg) (s : State) : (s.setPC a).getV r = s.getV r := rfl

/-! ### advancePC -/

@[simp] theorem State.advancePC_v (s : State) : s.advancePC.v = s.v := rfl
@[simp] theorem State.advancePC_i (s : State) : s.advancePC.i = s.i := rfl
@[simp] theorem State.advancePC_pc (s : State) : s.advancePC.pc = s.pc + 2 := rfl
@[simp] theorem State.advancePC_stack (s : State) : s.advancePC.stack = s.stack := rfl
@[simp] theorem State.advancePC_sp (s : State) : s.advancePC.sp = s.sp := rfl
@[simp] theorem State.advancePC_dt (s : State) : s.advancePC.dt = s.dt := rfl
@[simp] theorem State.advancePC_st (s : State) : s.advancePC.st = s.st := rfl
@[simp] theorem State.advancePC_mem (s : State) : s.advancePC.mem = s.mem := rfl
@[simp] theorem State.advancePC_fb (s : State) : s.advancePC.fb = s.fb := rfl
@[simp] theorem State.advancePC_key (s : State) : s.advancePC.key = s.key := rfl
@[simp] theorem State.advancePC_kw (s : State) : s.advancePC.kw = s.kw := rfl
@[simp] theorem State.advancePC_halted (s : State) : s.advancePC.halted = s.halted := rfl
@[simp] theorem State.advancePC_fault (s : State) : s.advancePC.fault = s.fault := rfl
@[simp] theorem State.advancePC_keyInput (s : State) : s.advancePC.keyInput = s.keyInput := rfl
@[simp] theorem State.advancePC_draws (s : State) : s.advancePC.draws = s.draws := rfl
@[simp] theorem State.advancePC_out (s : State) : s.advancePC.out = s.out := rfl
@[simp] theorem State.getV_advancePC (r : Reg) (s : State) : s.advancePC.getV r = s.getV r := rfl

/-! ### skipIf -/

@[simp] theorem State.skipIf_v (c : Bool) (s : State) : (s.skipIf c).v = s.v := rfl
@[simp] theorem State.skipIf_i (c : Bool) (s : State) : (s.skipIf c).i = s.i := rfl
@[simp] theorem State.skipIf_pc (c : Bool) (s : State) : (s.skipIf c).pc = if c then s.pc + 2 else s.pc := rfl
@[simp] theorem State.skipIf_stack (c : Bool) (s : State) : (s.skipIf c).stack = s.stack := rfl
@[simp] theorem State.skipIf_sp (c : Bool) (s : State) : (s.skipIf c).sp = s.sp := rfl
@[simp] theorem State.skipIf_dt (c : Bool) (s : State) : (s.skipIf c).dt = s.dt := rfl
@[simp] theorem State.skipIf_st (c : Bool) (s : State) : (s.skipIf c).st = s.st := rfl
@[simp] theorem State.skipIf_mem (c : Bool) (s : State) : (s.skipIf c).mem = s.mem := rfl
@[simp] theorem State.skipIf_fb (c : Bool) (s : State) : (s.skipIf c).fb = s.fb := rfl
@[simp] theorem State.skipIf_key (c : Bool) (s : State) : (s.skipIf c).key = s.key := rfl
@[simp] theorem State.skipIf_kw (c : Bool) (s : State) : (s.skipIf c).kw = s.kw := rfl
@[simp] theorem State.skipIf_halted (c : Bool) (s : State) : (s.skipIf c).halted = s.halted := rfl
@[simp] theorem State.skipIf_fault (c : Bool) (s : State) : (s.skipIf c).fault = s.fault := rfl
@[simp] theorem State.skipIf_keyInput (c : Bool) (s : State) : (s.skipIf c).keyInput = s.keyInput := rfl
@[simp] theorem State.skipIf_draws (c : Bool) (s : State) : (s.skipIf c).draws = s.draws := rfl
@[simp] theorem State.skipIf_out (c : Bool) (s : State) : (s.skipIf c).out = s.out := rfl
@[simp] theorem State.getV_skipIf (c : Bool) (r : Reg) (s : State) : (s.skipIf c).getV r = s.getV r := rfl

/-! ### setFB -/

@[simp] theorem State.setFB_v (fb : FrameBuffer) (s : State) : (s.setFB fb).v = s.v := rfl
@[simp] theorem State.setFB_i (fb : FrameBuffer) (s : State) : (s.setFB fb).i = s.i := rfl
@[simp] theorem State.setFB_pc (fb : FrameBuffer) (s : State) : (s.setFB fb).pc = s.pc := rfl
@[simp] theorem State.setFB_stack (fb : FrameBuffer) (s : State) : (s.setFB fb).stack = s.stack := rfl
@[simp] theorem State.setFB_sp (fb : FrameBuffer) (s : State) : (s.setFB fb).sp = s.sp := rfl
@[simp] theorem State.setFB_dt (fb : FrameBuffer) (s : State) : (s.setFB fb).dt = s.dt := rfl
@[simp] theorem State.setFB_st (fb : FrameBuffer) (s : State) : (s.setFB fb).st = s.st := rfl
@[simp] theorem State.setFB_mem (fb : FrameBuffer) (s : State) : (s.setFB fb).mem = s.mem := rfl
@[simp] theorem State.setFB_fb (fb : FrameBuffer) (s : State) : (s.setFB fb).fb = fb := rfl
@[simp] theorem State.setFB_key (fb : FrameBuffer) (s : State) : (s.setFB fb).key = s.key := rfl
@[simp] theorem State.setFB_kw (fb : FrameBuffer) (s : State) : (s.setFB fb).kw = s.kw := rfl
@[simp] theorem State.setFB_halted (fb : FrameBuffer) (s : State) : (s.setFB fb).halted = s.halted := rfl
@[simp] theorem State.setFB_fault (fb : FrameBuffer) (s : State) : (s.setFB fb).fault = s.fault := rfl
@[simp] theorem State.setFB_keyInput (fb : FrameBuffer) (s : State) : (s.setFB fb).keyInput = s.keyInput := rfl
@[simp] theorem State.setFB_draws (fb : FrameBuffer) (s : State) : (s.setFB fb).draws = s.draws := rfl
@[simp] theorem State.setFB_out (fb : FrameBuffer) (s : State) : (s.setFB fb).out = s.out := rfl
@[simp] theorem State.getV_setFB (fb : FrameBuffer) (r : Reg) (s : State) : (s.setFB fb).getV r = s.getV r := rfl

/-! ### emit -/

@[simp] theorem State.emit_v (c : Command) (s : State) : (s.emit c).v = s.v := rfl
@[simp] theorem State.emit_i (c : Command) (s : State) : (s.emit c).i = s.i := rfl
@[simp] theorem State.emit_pc (c : Command) (s : State) : (s.emit c).pc = s.pc := rfl
@[simp] theorem State.emit_stack (c : Command) (s : State) : (s.emit c).stack = s.stack := rfl
@[simp] theorem State.emit_sp (c : Command) (s : State) : (s.emit c).sp = s.sp := rfl
@[simp] theorem State.emit_dt (c : Command) (s : State) : (s.emit c).dt = s.dt := rfl
@[simp] theorem State.emit_st (c : Command) (s : State) : (s.emit c).st = s.st := rfl
@[simp] theorem State.emit_mem (c : Command) (s : State) : (s.emit c).mem = s.mem := rfl
@[simp] theorem State.emit_fb (c : Command) (s : State) : (s.emit c).fb = s.fb := rfl
@[simp] theorem State.emit_key (c : Command) (s : State) : (s.emit c).key = s.key := rfl
@[simp] theorem State.emit_kw (c : Command) (s : State) : (s.emit c).kw = s.kw := rfl
@[simp] theorem State.emit_halted (c : Command) (s : State) : (s.emit c).halted = s.halted := rfl
@[simp] theorem State.emit_fault (c : Command) (s : State) : (s.emit c).fault = s.fault := rfl
@[simp] theorem State.emit_keyInput (c : Command) (s : State) : (s.emit c).keyInput = s.keyInput := rfl
@[simp] theorem State.emit_draws (c : Command) (s : State) : (s.emit c).draws = s.draws := rfl
@[simp] theorem State.emit_out (c : Command) (s : State) : (s.emit c).out = s.out ++ [c] := rfl
@[simp] theorem State.getV_emit (c : Command) (r : Reg) (s : State) : (s.emit c).getV r = s.getV r := rfl

/-! ### setFlag -/

@[simp] theorem State.setFlag_v (c : Bool) (s : State) : (s.setFlag c).v = s.v.set VF (b2i c) := rfl
@[simp] theorem State.setFlag_i (c : Bool) (s : State) : (s.setFlag c).i = s.i := rfl
@[simp] theorem State.setFlag_pc (c : Bool) (s : State) : (s.setFlag c).pc = s.pc := rfl
@[simp] theorem State.setFlag_stack (c : Bool) (s : State) : (s.setFlag c).stack = s.stack := rfl
@[simp] theorem State.setFlag_sp (c : Bool) (s : State) : (s.setFlag c).sp = s.sp := rfl
@[simp] theorem State.setFlag_dt (c : Bool) (s : State) : (s.setFlag c).dt = s.dt := rfl
@[simp] theorem State.setFlag_st (c : Bool) (s : State) : (s.setFlag c).st = s.st := rfl
@[simp] theorem State.setFlag_mem (c : Bool) (s : State) : (s.setFlag c).mem = s.mem := rfl
@[simp] theorem State.setFlag_fb (c : Bool) (s : State) : (s.setFlag c).fb = s.fb := rfl
@[simp] theorem State.setFlag_key (c : Bool) (s : State) : (s.setFlag c).key = s.key := rfl
@[simp] theorem State.setFlag_kw (c : Bool) (s : State) : (s.setFlag c).kw = s.kw := rfl
@[simp] theorem State.setFlag_halted (c : Bool) (s : State) : (s.setFlag c).halted = s.halted := rfl
@[simp] theorem State.setFlag_fault (c : Bool) (s : State) : (s.setFlag c).fault = s.fault := rfl
@[simp] theorem State.setFlag_keyInput (c : Bool) (s : State) : (s.setFlag c).keyInput = s.keyInput := rfl
@[simp] theorem State.setFlag_draws (c : Bool) (s : State) : (s.setFlag c).draws = s.draws := rfl
@[simp] theorem State.setFlag_out (c : Bool) (s : State) : (s.setFlag c).out = s.out := rfl

/-! ### setResult -/

@[simp] theorem State.setResult_v (x : Reg) (b : Byte) (c : Bool) (s : State) : (s.setResult x b c).v = (s.v.set x b).set VF (b2i c) := rfl
@[simp] theorem State.setResult_i (x : Reg) (b : Byte) (c : Bool) (s : State) : (s.setResult x b c).i = s.i := rfl
@[simp] theorem State.setResult_pc (x : Reg) (b : Byte) (c : Bool) (s : State) : (s.setResult x b c).pc = s.pc := rfl
@[simp] theorem State.setResult_stack (x : Reg) (b : Byte) (c : Bool) (s : State) : (s.setResult x b c).stack = s.stack := rfl
@[simp] theorem State.setResult_sp (x : Reg) (b : Byte) (c : Bool) (s : State) : (s.setResult x b c).sp = s.sp := rfl
@[simp] theorem State.setResult_dt (x : Reg) (b : Byte) (c : Bool) (s : State) : (s.setResult x b c).dt = s.dt := rfl
@[simp] theorem State.setResult_st (x : Reg) (b : Byte) (c : Bool) (s : State) : (s.setResult x b c).st = s.st := rfl
@[simp] theorem State.setResult_mem (x : Reg) (b : Byte) (c : Bool) (s : State) : (s.setResult x b c).mem = s.mem := rfl
@[simp] theorem State.setResult_fb (x : Reg) (b : Byte) (c : Bool) (s : State) : (s.setResult x b c).fb = s.fb := rfl
@[simp] theorem State.setResult_key (x : Reg) (b : Byte) (c : Bool) (s : State) : (s.setResult x b c).key = s.key := rfl
@[simp] theorem State.setResult_kw (x : Reg) (b : Byte) (c : Bool) (s : State) : (s.setResult x b c).kw = s.kw := rfl
@[simp] theorem State.setResult_halted (x : Reg) (b : Byte) (c : Bool) (s : State) : (s.setResult x b c).halted = s.halted := rfl
@[simp] theorem State.setResult_fault (x : Reg) (b : Byte) (c : Bool) (s : State) : (s.setResult x b c).fault = s.fault := rfl
@[simp] theorem State.setResult_keyInput (x : Reg) (b : Byte) (c : Bool) (s : State) : (s.setResult x b c).keyInput = s.keyInput := rfl
@[simp] theorem State.setResult_draws (x : Reg) (b : Byte) (c : Bool) (s : State) : (s.setResult x b c).draws = s.draws := rfl
@[simp] theorem State.setResult_out (x : Reg) (b : Byte) (c : Bool) (s : State) : (s.setResult x b c).out = s.out := rfl

/-! ### beginCycle -/

@[simp] theorem State.beginCycle_v (s : State) : s.beginCycle.v = s.v := rfl
@[simp] theorem State.beginCycle_i (s : State) : s.beginCycle.i = s.i := rfl
@[simp] theorem State.beginCycle_pc (s : State) : s.beginCycle.pc = s.pc := rfl
@[simp] theorem State.beginCycle_stack (s : State) : s.beginCycle.stack = s.stack := rfl
@[simp] theorem State.beginCycle_sp (s : State) : s.beginCycle.sp = s.sp := rfl
@[simp] theorem State.beginCycle_dt (s : State) : s.beginCycle.dt = s.dt := rfl
@[simp] theorem State.beginCycle_st (s : State) : s.beginCycle.st = s.st := rfl
@[simp] theorem State.beginCycle_mem (s : State) : s.beginCycle.mem = s.mem := rfl
@[simp] theorem State.beginCycle_fb (s : State) : s.beginCycle.fb = s.fb := rfl
@[simp] theorem State.beginCycle_key (s : State) : s.beginCycle.key = s.key := rfl
@[simp] theorem State.beginCycle_kw (s : State) : s.beginCycle.kw = s.kw := rfl
@[simp] theorem State.beginCycle_halted (s : State) : s.beginCycle.halted = s.halted := rfl
@[simp] theorem State.beginCycle_fault (s : State) : s.beginCycle.fault = s.fault := rfl
@[simp] theorem State.beginCycle_keyInput (s : State) : s.beginCycle.keyInput = s.keyInput.tail := rfl
@[simp] theorem State.beginCycle_draws (s : State) : s.beginCycle.draws = s.draws := rfl
@[simp] theorem State.beginCycle_out (s : State) : s.beginCycle.out = [] := rfl
@[simp] theorem State.getV_beginCycle (r : Reg) (s : State) : s.beginCycle.getV r = s.getV r := rfl

/-! ### tickDelay -/

@[simp] theorem tickDelay_v (s : State) : (tickDelay s).v = s.v := rfl
@[simp] theorem tickDelay_i (s : State) : (tickDelay s).i = s.i := rfl
@[simp] theorem tickDelay_pc (s : State) : (tickDelay s).pc = s.pc := rfl
@[simp] theorem tickDelay_stack (s : State) : (tickDelay s).stack = s.stack := rfl
@[simp] theorem tickDelay_sp (s : State) : (tickDelay s).sp = s.sp := rfl
@[simp] theorem tickDelay_dt (s : State) : (tickDelay s).dt = tick s.dt := rfl
@[simp] theorem tickDelay_st (s : State) : (tickDelay s).st = s.st := rfl
@[simp] theorem tickDelay_mem (s : State) : (tickDelay s).mem = s.mem := rfl
@[simp] theorem tickDelay_fb (s : State) : (tickDelay s).fb = s.fb := rfl
@[simp] theorem tickDelay_key (s : State) : (tickDelay s).key = s.key := rfl
@[simp] theorem tickDelay_kw (s : State) : (tickDelay s).kw = s.kw := rfl
@[simp] theorem tickDelay_halted (s : State) : (tickDelay s).halted = s.halted := rfl
@[simp] theorem tickDelay_fault (s : State) : (tickDelay s).fault = s.fault := rfl
@[simp] theorem tickDelay_keyInput (s : State) : (tickDelay s).keyInput = s.keyInput := rfl
@[simp] theorem tickDelay_draws (s : State) : (tickDelay s).draws = s.draws := rfl
@[simp] theorem tickDelay_out (s : State) : (tickDelay s).out = s.out := rfl
@[simp] theorem getV_tickDelay (r : Reg) (s : State) : (tickDelay s).getV r = s.getV r := rfl

/-! ### tickSound -/

@[simp] theorem tickSound_v (s : State) : (tickSound s).v = s.v := rfl
@[simp] theorem tickSound_i (s : State) : (tickSound s).i = s.i := rfl
@[simp] theorem tickSound_pc (s : State) : (tickSound s).pc = s.pc := rfl
@[simp] theorem tickSound_stack (s : State) : (tickSound s).stack = s.stack := rfl
@[simp] theorem tickSound_sp (s : State) : (tickSound s).sp = s.sp := rfl
@[simp] theorem tickSound_dt (s : State) : (tickSound s).dt = s.dt := rfl
@[simp] theorem tickSound_st (s : State) : (tickSound s).st = tick s.st := rfl
@[simp] theorem tickSound_mem (s : State) : (tickSound s).mem = s.mem := rfl
@[simp] theorem tickSound_fb (s : State) : (tickSound s).fb = s.fb := rfl
@[simp] theorem tickSound_key (s : State) : (tickSound s).key = s.key := rfl
@[simp] theorem tickSound_kw (s : State) : (tickSound s).kw = s.kw := rfl
@[simp] theorem tickSound_halted (s : State) : (tickSound s).halted = s.halted := rfl
@[simp] theorem tickSound_fault (s : State) : (tickSound s).fault = s.fault := rfl
@[simp] theorem tickSound_keyInput (s : State) : (tickSound s).keyInput = s.keyInput := rfl
@[simp] theorem tickSound_draws (s : State) : (tickSound s).draws = s.draws := rfl
@[simp] theorem tickSound_out (s : State) : (tickSound s).out = s.out ++ audioCommand s.st := rfl
@[simp] theorem getV_tickSound (r : Reg) (s : State) : (tickSound s).getV r = s.getV r := rfl

/-! ### publish -/

@[simp] theorem publish_v (s : State) : (publish s).v = s.v := rfl
@[simp] theorem publish_i (s : State) : (publish s).i = s.i := rfl
@[simp] theorem publish_pc (s : State) : (publish s).pc = s.pc := rfl
@[simp] theorem publish_stack (s : State) : (publish s).stack = s.stack := rfl
@[simp] theorem publish_sp (s : State) : (publish s).sp = s.sp := rfl
@[simp] theorem publish_dt (s : State) : (publish s).dt = s.dt := rfl
@[simp] theorem publish_st (s : State) : (publish s).st = s.st := rfl
@[simp] theorem publish_mem (s : State) : (publish s).mem = s.mem := rfl
@[simp] theorem publish_fb (s : State) : (publish s).fb = s.fb := rfl
@[simp] theorem publish_key (s : State) : (publish s).key = s.key := rfl
@[simp] theorem publish_kw (s : State) : (publish s).kw = s.kw := rfl
@[simp] theorem publish_halted (s : State) : (publish s).halted = s.halted := rfl
@[simp] theorem publish_fault (s : State) : (publish s).fault = s.fault := rfl
@[simp] theorem publish_keyInput (s : State) : (publish s).keyInput = s.keyInput := rfl
@[simp] theorem publish_draws (s : State) : (publish s).draws = s.draws := rfl
@[simp] theorem publish_out (s : State) : (publish s).out = s.out ++ snapshots s := rfl
@[simp] theorem getV_publish (r : Reg) (s : State) : (publish s).getV r = s.getV r := rfl

/-! ### finishCycle -/

@[simp] theorem finishCycle_v (s : State) : (finishCycle s).v = s.v := rfl
@[simp] theorem finishCycle_i (s : State) : (finishCycle s).i = s.i := rfl
@[simp] theorem finishCycle_pc (s : State) : (finishCycle s).pc = s.pc := rfl
@[simp] theorem finishCycle_stack (s : State) : (finishCycle s).stack = s.stack := rfl
@[simp] theorem finishCycle_sp (s : State) : (finishCycle s).sp = s.sp := rfl
@[simp] theorem finishCycle_dt (s : State) : (finishCycle s).dt = tick s.dt := rfl
@[simp] theorem finishCycle_st (s : State) : (finishCycle s).st = tick s.st := rfl
@[simp] theorem finishCycle_mem (s : State) : (finishCycle s).mem = s.mem := rfl
@[simp] theorem finishCycle_fb (s : State) : (finishCycle s).fb = s.fb := rfl
@[simp] theorem finishCycle_key (s : State) : (finishCycle s).key = s.key := rfl
@[simp] theorem finishCycle_kw (s : State) : (finishCycle s).kw = s.kw := rfl
@[simp] theorem finishCycle_halted (s : State) : (finishCycle s).halted = s.halted := rfl
@[simp] theorem finishCycle_fault (s : State) : (finishCycle s).fault = s.fault := rfl
@[simp] theorem finishCycle_keyInput (s : State) : (finishCycle s).keyInput = s.keyInput := rfl
@[simp] theorem finishCycle_draws (s : State) : (finishCycle s).draws = s.draws := rfl
@[simp] theorem finishCycle_out (s : State) : (finishCycle s).out = s.out ++ audioCommand s.st ++ snapshots s := rfl
@[simp] theorem getV_finishCycle (r : Reg) (s : State) : (finishCycle s).getV r = s.getV r := rfl

/-! ### applyKeyEvent: what an event never touches -/

@[simp] theorem applyKeyEvent_i (s : State) (e : KeyEvent) : (applyKeyEvent s e).i = s.i := rfl
@[simp] theorem applyKeyEvent_pc (s : State) (e : KeyEvent) : (applyKeyEvent s e).pc = s.pc := rfl
@[simp] theorem applyKeyEvent_stack (s : State) (e : KeyEvent) : (applyKeyEvent s e).stack = s.stack := rfl
@[simp] theorem applyKeyEvent_sp (s : State) (e : KeyEvent) : (applyKeyEvent s e).sp = s.sp := rfl
@[simp] theorem applyKeyEvent_dt (s : State) (e : KeyEvent) : (applyKeyEvent s e).dt = s.dt := rfl
@[simp] theorem applyKeyEvent_st (s : State) (e : KeyEvent) : (applyKeyEvent s e).st = s.st := rfl
@[simp] theorem applyKeyEvent_mem (s : State) (e : KeyEvent) : (applyKeyEvent s e).mem = s.mem := rfl
@[simp] theorem applyKeyEvent_fb (s : State) (e : KeyEvent) : (applyKeyEvent s e).fb = s.fb := rfl
@[simp] theorem applyKeyEvent_halted (s : State) (e : KeyEvent) : (applyKeyEvent s e).halted = s.halted := rfl
@[simp] theorem applyKeyEvent_fault (s : State) (e : KeyEvent) : (applyKeyEvent s e).fault = s.fault := rfl
@[simp] theorem applyKeyEvent_keyInput (s : State) (e : KeyEvent) : (applyKeyEvent s e).keyInput = s.keyInput := rfl
@[simp] theorem applyKeyEvent_draws (s : State) (e : KeyEvent) : (applyKeyEvent s e).draws = s.draws := rfl
@[simp] theorem applyKeyEvent_out (s : State) (e : KeyEvent) : (applyKeyEvent s e).out = s.out := rfl

/-! ### Reading registers -/

/-- Reading a register after a write: the written value there, the old one elsewhere. -/
@[simp] theorem State.getV_setV (x r : Reg) (b : Byte) (s : State) :
    (s.setV x b).getV r = if r = x then b else s.getV r := by
  simp only [State.getV, State.setV, Fin.getElem_fin, Vector.getElem_set, Fin.ext_iff, eq_comm]

@[simp] theorem State.getV_setFlag (c : Bool) (r : Reg) (s : State) :
    (s.setFlag c).getV r = if r = VF then b2i c else s.getV r := State.getV_setV VF r (b2i c) s

/-- The flag is what `VF` holds afterwards, whatever the destination (R161). -/
@[simp] theorem State.getV_setResult (x r : Reg) (b : Byte) (c : Bool) (s : State) :
    (s.setResult x b c).getV r = if r = VF then b2i c else if r = x then b else s.getV r := by
  simp [State.setResult]


end Sys2Proof.Machine
end

