-- ==== Sys2Proof/Laws/Ops.lean ====
section
/-!
SUPPORT. What the stack operations, a block of registers, the taking of a fault and the key events can do, said once
(spec/41_jump_call_return.md R112, R113; spec/60_exceptions.md R205; spec/40_cycle.md R91).
-/

namespace Sys2Proof.Machine

/-! ### Stack -/

/-- A push on a stack that is not full writes the slot `SP` and counts it. -/
theorem State.push_of_lt (a : Word) (s : State) (h : s.sp.val < 16) :
    s.push a = some { s with stack := s.stack.set s.sp.val a, sp := ⟨s.sp.val + 1, by omega⟩ } := dif_pos h

theorem State.push_full (a : Word) (s : State) (h : ¬ s.sp.val < 16) : s.push a = none := dif_neg h

/-- A pop of a stack that is not empty gives the last slot and counts it out; the slot keeps its value. -/
theorem State.pop_of_ne (s : State) (h : s.sp.val ≠ 0) :
    s.pop = some (s.stack[s.sp.val - 1]'(by omega), { s with sp := ⟨s.sp.val - 1, by omega⟩ }) := if_neg h

theorem State.pop_empty (s : State) (h : s.sp.val = 0) : s.pop = none := if_pos h

/-! ### Blocks of registers -/

theorem getElem_writeRegsFrom (k : Nat) (hk : k < 16) : (bs : List Byte) → (v : Vector Byte 16) → (r : Nat) →
    (writeRegsFrom v r bs)[k] = if r ≤ k ∧ k < r + bs.length then bs.getD (k - r) 0 else v[k]
  | [], v, r => by rw [writeRegsFrom, if_neg (by simp only [List.length_nil]; omega)]
  | b :: bs, v, r => by
    rw [writeRegsFrom, getElem_writeRegsFrom k hk bs, Vector.getElem_setIfInBounds hk]
    simp only [List.length_cons]
    by_cases h1 : k = r
    · subst h1; simp
    · by_cases h2 : r + 1 ≤ k ∧ k < r + 1 + bs.length
      · rw [if_pos h2, if_pos (by omega)]
        obtain ⟨d, hd⟩ : ∃ d, k - r = d + 1 := ⟨k - r - 1, by omega⟩
        rw [hd, List.getD_cons_succ]; congr 1; omega
      · rw [if_neg h2, if_neg (by omega), if_neg (by omega)]

/-- Registers written from a list: the list's bytes in the first registers, the others as they were. -/
theorem State.getV_setRegs (bs : List Byte) (s : State) (r : Reg) :
    (s.setRegs bs).getV r = if r.val < bs.length then bs.getD r.val 0 else s.getV r := by
  show (writeRegsFrom s.v 0 bs)[r.val] = _
  rw [getElem_writeRegsFrom r.val r.isLt]
  simp [State.getV]

@[simp] theorem State.length_regsUpTo (s : State) (x : Reg) : (s.regsUpTo x).length = x.val + 1 := by
  simp [State.regsUpTo]

/-- The r-th byte of a register block is `V[r]`. -/
theorem State.getD_regsUpTo (s : State) (x r : Reg) (h : r.val ≤ x.val) : (s.regsUpTo x).getD r.val 0 = s.getV r := by
  simp only [State.regsUpTo, List.getD_eq_getElem?_getD, List.getElem?_take, if_pos (show r.val < x.val + 1 by omega)]
  simp [State.getV]

/-! ### Faults -/

/-- Taking a fault answers a next state that differs in `HALTED` and `FAULT` alone. -/
theorem takeFault_eq (k : FaultKind) (w : Word) (s : State) :
    takeFault k w s = .next { s with halted := true, fault := ⟨k, w, s.pc⟩ } := rfl

theorem raise_eq (k : FaultKind) (i : Instr) (s : State) :
    raise k i s = .next { s with halted := true, fault := ⟨k, encode i, s.pc⟩ } := rfl

/-! ### Key events -/

theorem applyKeyEvents_cons (e : KeyEvent) (es : List KeyEvent) (s : State) :
    applyKeyEvents (e :: es) s = applyKeyEvents es (applyKeyEvent s e) := rfl

theorem applyKeyEvent_of_up {s : State} {e : KeyEvent} (h : s.kw.latched = false ∨ e.pressed = false) :
    applyKeyEvent s e = { s with key := s.key.set e.key e.pressed } := by
  unfold applyKeyEvent; rcases h with h | h <;> simp [h]

theorem applyKeyEvent_of_down {s : State} {e : KeyEvent} (h : s.kw.latched = true) (h' : e.pressed = true) :
    applyKeyEvent s e = { s with
      key := s.key.set e.key true
      v := s.v.set s.kw.reg (BitVec.ofNat 8 e.key.val)
      kw := { s.kw with latched := false } } := by
  unfold applyKeyEvent; simp [h, h']

/-- Key events never touch anything but the registers, the key matrix and the latch: applied to a state, they give that state
with these three replaced. -/
theorem applyKeyEvents_eq (es : List KeyEvent) (s : State) :
    ∃ v key kw, applyKeyEvents es s = { s with v := v, key := key, kw := kw } := by
  induction es generalizing s with
  | nil => exact ⟨s.v, s.key, s.kw, rfl⟩
  | cons e es ih =>
    obtain ⟨v, key, kw, h⟩ := ih (applyKeyEvent s e)
    exact ⟨v, key, kw, by rw [applyKeyEvents_cons, h]; rfl⟩

/-- Without a pending wait, or without a key-down, events change the key matrix alone. -/
theorem applyKeyEvents_of_no_wake {es : List KeyEvent} {s : State}
    (h : s.kw.latched = false ∨ ∀ e ∈ es, e.pressed = false) :
    ∃ key, applyKeyEvents es s = { s with key := key } := by
  induction es generalizing s with
  | nil => exact ⟨s.key, rfl⟩
  | cons e es ih =>
    have he : s.kw.latched = false ∨ e.pressed = false := h.imp_right fun h => h e (by simp)
    rw [applyKeyEvents_cons, applyKeyEvent_of_up he]
    obtain ⟨key, hk⟩ := @ih { s with key := s.key.set e.key e.pressed } (h.imp_right fun h d hd => h d (by simp [hd]))
    exact ⟨key, hk⟩

theorem getElem_key_applyKeyEvent (s : State) (e : KeyEvent) (k : Key) :
    (applyKeyEvent s e).key[k] = if k = e.key then e.pressed else s.key[k] := by
  simp only [applyKeyEvent, Fin.getElem_fin, Vector.getElem_set, Fin.ext_iff, eq_comm]

end Sys2Proof.Machine
end

