-- ==== Sys2Proof/Laws/Cycle.lean ====
section
/-!
SUPPORT. The moments of a cycle: the fetch as one condition, step 2 by what the fetched word decodes to, and each
field after step 1 (spec/40_cycle.md R90 to R104).
-/

namespace Sys2Proof.Machine

/-! ### Fetch and execution -/

theorem fetchWord_eq (s : State) :
    fetchWord s = if s.pc.toNat < 0xFFF then
      some (wordOfBytes (s.mem.byteAt s.pc.toNat) (s.mem.byteAt (s.pc.toNat + 1))) else none := by
  unfold fetchWord memRead
  by_cases h : s.pc.toNat < 0xFFF
  · rw [if_pos h, if_pos (by omega), if_pos (by omega)]
  · by_cases h' : s.pc.toNat ≤ 0xFFF
    · rw [if_neg h, if_pos h', if_neg (by omega)]
    · rw [if_neg h, if_neg h']

theorem executePair_decodePair (w : Word) (s : State) :
    executePair (decodePair w).1 (decodePair w).2 w s =
      match decode w with
      | .ok i => exec i s
      | .error _ => takeFault .decodeFailure w s := rfl

/-! ### Fields after step 1 -/

@[simp] theorem applyKeyEvents_i (es : List KeyEvent) (s : State) : (applyKeyEvents es s).i = s.i := by
  obtain ⟨_, _, _, h⟩ := applyKeyEvents_eq es s
  rw [h]

@[simp] theorem applyKeyEvents_pc (es : List KeyEvent) (s : State) : (applyKeyEvents es s).pc = s.pc := by
  obtain ⟨_, _, _, h⟩ := applyKeyEvents_eq es s
  rw [h]

@[simp] theorem applyKeyEvents_stack (es : List KeyEvent) (s : State) : (applyKeyEvents es s).stack = s.stack := by
  obtain ⟨_, _, _, h⟩ := applyKeyEvents_eq es s
  rw [h]

@[simp] theorem applyKeyEvents_sp (es : List KeyEvent) (s : State) : (applyKeyEvents es s).sp = s.sp := by
  obtain ⟨_, _, _, h⟩ := applyKeyEvents_eq es s
  rw [h]

@[simp] theorem applyKeyEvents_dt (es : List KeyEvent) (s : State) : (applyKeyEvents es s).dt = s.dt := by
  obtain ⟨_, _, _, h⟩ := applyKeyEvents_eq es s
  rw [h]

@[simp] theorem applyKeyEvents_st (es : List KeyEvent) (s : State) : (applyKeyEvents es s).st = s.st := by
  obtain ⟨_, _, _, h⟩ := applyKeyEvents_eq es s
  rw [h]

@[simp] theorem applyKeyEvents_mem (es : List KeyEvent) (s : State) : (applyKeyEvents es s).mem = s.mem := by
  obtain ⟨_, _, _, h⟩ := applyKeyEvents_eq es s
  rw [h]

@[simp] theorem applyKeyEvents_fb (es : List KeyEvent) (s : State) : (applyKeyEvents es s).fb = s.fb := by
  obtain ⟨_, _, _, h⟩ := applyKeyEvents_eq es s
  rw [h]

@[simp] theorem applyKeyEvents_halted (es : List KeyEvent) (s : State) : (applyKeyEvents es s).halted = s.halted := by
  obtain ⟨_, _, _, h⟩ := applyKeyEvents_eq es s
  rw [h]

@[simp] theorem applyKeyEvents_fault (es : List KeyEvent) (s : State) : (applyKeyEvents es s).fault = s.fault := by
  obtain ⟨_, _, _, h⟩ := applyKeyEvents_eq es s
  rw [h]

@[simp] theorem applyKeyEvents_keyInput (es : List KeyEvent) (s : State) : (applyKeyEvents es s).keyInput = s.keyInput := by
  obtain ⟨_, _, _, h⟩ := applyKeyEvents_eq es s
  rw [h]

@[simp] theorem applyKeyEvents_draws (es : List KeyEvent) (s : State) : (applyKeyEvents es s).draws = s.draws := by
  obtain ⟨_, _, _, h⟩ := applyKeyEvents_eq es s
  rw [h]

@[simp] theorem applyKeyEvents_out (es : List KeyEvent) (s : State) : (applyKeyEvents es s).out = s.out := by
  obtain ⟨_, _, _, h⟩ := applyKeyEvents_eq es s
  rw [h]

@[simp] theorem State.afterEvents_i (s : State) : s.afterEvents.i = s.i := by simp [State.afterEvents, State.beginCycle]
@[simp] theorem State.afterEvents_pc (s : State) : s.afterEvents.pc = s.pc := by simp [State.afterEvents, State.beginCycle]
@[simp] theorem State.afterEvents_stack (s : State) : s.afterEvents.stack = s.stack := by simp [State.afterEvents, State.beginCycle]
@[simp] theorem State.afterEvents_sp (s : State) : s.afterEvents.sp = s.sp := by simp [State.afterEvents, State.beginCycle]
@[simp] theorem State.afterEvents_dt (s : State) : s.afterEvents.dt = s.dt := by simp [State.afterEvents, State.beginCycle]
@[simp] theorem State.afterEvents_st (s : State) : s.afterEvents.st = s.st := by simp [State.afterEvents, State.beginCycle]
@[simp] theorem State.afterEvents_mem (s : State) : s.afterEvents.mem = s.mem := by simp [State.afterEvents, State.beginCycle]
@[simp] theorem State.afterEvents_fb (s : State) : s.afterEvents.fb = s.fb := by simp [State.afterEvents, State.beginCycle]
@[simp] theorem State.afterEvents_halted (s : State) : s.afterEvents.halted = s.halted := by simp [State.afterEvents, State.beginCycle]
@[simp] theorem State.afterEvents_fault (s : State) : s.afterEvents.fault = s.fault := by simp [State.afterEvents, State.beginCycle]
@[simp] theorem State.afterEvents_keyInput (s : State) : s.afterEvents.keyInput = s.keyInput.tail := by simp [State.afterEvents, State.beginCycle]
@[simp] theorem State.afterEvents_draws (s : State) : s.afterEvents.draws = s.draws := by simp [State.afterEvents, State.beginCycle]
@[simp] theorem State.afterEvents_out (s : State) : s.afterEvents.out = [] := by simp [State.afterEvents, State.beginCycle]

/-- Step 1 does not touch what a fetch reads. -/
@[simp] theorem fetchWord_afterEvents (s : State) : fetchWord s.afterEvents = fetchWord s := by simp [fetchWord_eq]

/-- On a core that is not waiting, step 1 changes the key matrix alone. -/
theorem State.afterEvents_of_not_waiting {s : State} (h : s.kw.latched = false) :
    ∃ key, s.afterEvents = { s with key := key, keyInput := s.keyInput.tail, out := [] } := by
  obtain ⟨key, hk⟩ := applyKeyEvents_of_no_wake (es := s.nextEvents) (s := s.beginCycle) (.inl h)
  exact ⟨key, hk⟩

/-! ### Ticks and publishing -/


theorem tick_toNat (b : Byte) : (tick b).toNat = b.toNat - 1 := by
  unfold tick
  split
  · next h => subst h; rfl
  · next h =>
    have h0 : b.toNat ≠ 0 := fun h' => h (BitVec.eq_of_toNat_eq (by simpa using h'))
    have := b.isLt
    rw [BitVec.toNat_sub]; simp; omega

/-! ### The cycle by its case -/

theorem run_zero (s : State) : Host.Core.run Sys2Proof.core 0 s = .next s := rfl

theorem run_succ {s t : State} (h : step s = .next t) (n : Nat) :
    Host.Core.run Sys2Proof.core (n + 1) s = Host.Core.run Sys2Proof.core n t := by
  have general : ∀ (M : Host.Core) {a b : M.State}, M.step a = .next b → M.run (n + 1) a = M.run n b := by
    intro M a b h
    simp only [Host.Core.run, h]
  exact general Sys2Proof.core h

theorem step_halted {s : State} (h : s.halted = true) : step s = .next s.beginCycle := by
  simp [step, cycle, State.beginCycle, h]

theorem step_waiting {s : State} (h : s.halted = false) (hw : s.kw.latched = true) :
    step s = .next (finishCycle s.afterEvents) := by
  simp [step, cycle, activeCycle, State.afterEvents, State.beginCycle, h, hw]

theorem step_active {s : State} (h : s.halted = false) (hw : s.kw.latched = false) :
    step s = afterExecute (fetchDecodeExecute s.afterEvents) := by
  simp [step, cycle, activeCycle, State.afterEvents, State.beginCycle, h, hw]

end Sys2Proof.Machine
end

