-- ==== Sys2Proof/Laws/Display.lean ====
section
/-!
SUPPORT. The pixel buffer: a toggle, the drawing of distinct cells, and the cells of a sprite
(spec/46_draw_cls.md R175 to R178).
-/

namespace Sys2Proof.Machine

/-- A toggle inverts its cell and leaves every other cell alone. -/
theorem FrameBuffer.cell_toggle (fb : FrameBuffer) (c d : Cell) :
    FrameBuffer.cell (FrameBuffer.toggle fb c) d = (FrameBuffer.cell fb d ^^ decide (d = c)) := by
  obtain ⟨cx, cy⟩ := c
  obtain ⟨dx, dy⟩ := d
  simp only [FrameBuffer.cell, FrameBuffer.toggle, Fin.getElem_fin, Vector.getElem_set, Prod.mk.injEq, Fin.ext_iff]
  by_cases hy : dy.val = cy.val
  · simp [hy, eq_comm]
  · simp [hy, Ne.symm hy]

/-- Drawing distinct cells: each is inverted, every other cell is left alone, and the flag tells whether one of them was set
before. -/
theorem drawCells_spec : (cs : List Cell) → cs.Nodup → ∀ (fb : FrameBuffer) (hit : Bool),
    (∀ d, FrameBuffer.cell (drawCells cs fb hit).1 d = (FrameBuffer.cell fb d ^^ decide (d ∈ cs))) ∧
    (drawCells cs fb hit).2 = (hit || cs.any fun c => FrameBuffer.cell fb c)
  | [], _, fb, hit => by simp [drawCells]
  | c :: cs, hn, fb, hit => by
    obtain ⟨hc, hn⟩ := List.nodup_cons.mp hn
    obtain ⟨h1, h2⟩ := drawCells_spec cs hn (FrameBuffer.toggle fb c) (hit || FrameBuffer.cell fb c)
    unfold drawCells
    refine ⟨fun d => ?_, ?_⟩
    · rw [h1, FrameBuffer.cell_toggle]
      by_cases hd : d = c
      · subst hd; simp [hc]
      · simp [hd]
    · rw [h2, List.any_cons, Bool.or_assoc]
      congr 2
      rw [Bool.eq_iff_iff]
      simp only [List.any_eq_true, FrameBuffer.cell_toggle]
      refine exists_congr fun d => and_congr_right fun hd => ?_
      have : d ≠ c := fun e => hc (e ▸ hd)
      simp [this]

theorem mem_rowCells (x0 y : Nat) (b : Byte) (d : Cell) :
    d ∈ rowCells x0 y b ↔ ∃ c, c < 8 ∧ b.getLsbD (7 - c) = true ∧ d = wrapCell (x0 + c) y := by
  simp only [rowCells, List.mem_map, List.mem_filter, List.mem_range, and_assoc, eq_comm (a := d)]

/-- The cells of a sprite: a set bit `7 - c` of row `r` gives the cell `c` columns and `r` rows on. -/
theorem mem_spriteCells (x0 : Nat) (d : Cell) : (rows : List Byte) → (y : Nat) →
    (d ∈ spriteCells x0 y rows ↔
      ∃ r c, r < rows.length ∧ c < 8 ∧ (rows.getD r 0).getLsbD (7 - c) = true ∧ d = wrapCell (x0 + c) (y + r))
  | [], y => by simp [spriteCells]
  | b :: bs, y => by
    rw [spriteCells, List.mem_append, mem_rowCells, mem_spriteCells x0 d bs (y + 1)]
    constructor
    · rintro (⟨c, h⟩ | ⟨r, c, hr, h⟩)
      · exact ⟨0, c, by simp, h⟩
      · exact ⟨r + 1, c, by simpa using hr, by rwa [show y + (r + 1) = y + 1 + r by omega]⟩
    · rintro ⟨r, c, hr, h⟩
      cases r with
      | zero => exact .inl ⟨c, h⟩
      | succ r => exact .inr ⟨r, c, by simpa using hr, by rwa [show y + 1 + r = y + (r + 1) by omega]⟩

theorem wrapCell_eq_iff (px py px' py' : Nat) :
    wrapCell px py = wrapCell px' py' ↔ px % 64 = px' % 64 ∧ py % 32 = py' % 32 := by
  simp [wrapCell]

theorem nodup_rowCells (x0 y : Nat) (b : Byte) : (rowCells x0 y b).Nodup := by
  refine List.Nodup.map_on ?_ ((List.nodup_range).filter _)
  intro c hc c' hc' h
  simp only [List.mem_filter, List.mem_range] at hc hc'
  rw [wrapCell_eq_iff] at h
  omega

/-- No cell is toggled twice by one sprite: 8 columns are distinct modulo 64 and at most 32 rows modulo 32 (R175). -/
theorem nodup_spriteCells (x0 : Nat) : (rows : List Byte) → (y : Nat) → rows.length ≤ 32 → (spriteCells x0 y rows).Nodup
  | [], _, _ => List.nodup_nil
  | b :: bs, y, h => by
    have h : bs.length + 1 ≤ 32 := h
    rw [spriteCells, List.nodup_append]
    refine ⟨nodup_rowCells x0 y b, nodup_spriteCells x0 bs (y + 1) (by omega), ?_⟩
    intro d hd e he hde
    subst hde
    obtain ⟨c, hc, -, rfl⟩ := (mem_rowCells ..).mp hd
    obtain ⟨r, c', hr, hc', -, h'⟩ := (mem_spriteCells ..).mp he
    rw [wrapCell_eq_iff] at h'
    omega

/-- Every cell of a cleared buffer is false (R178). -/
@[simp] theorem FrameBuffer.cell_clear (d : Cell) : FrameBuffer.cell FrameBuffer.clear d = false := by
  simp [FrameBuffer.cell, FrameBuffer.clear]

end Sys2Proof.Machine
end

