-- ==== Sys2Proof/Laws/Operands.lean ====
section
/-!
SUPPORT. What each operand form and each flag computation gives, as a number or a condition.
-/

namespace Sys2Proof.Machine

theorem addrWord_toNat (nnn : Addr) : (addrWord nnn).toNat = nnn.toNat := by
  simp [addrWord]; omega

theorem v0Target_toNat (nnn : Addr) (b : Byte) : (v0Target nnn b).toNat = nnn.toNat + b.toNat := by
  simp [v0Target]; omega

theorem indexSum_toNat (i : Word) (b : Byte) : (indexSum i b).toNat = (i.toNat + b.toNat) % 4096 := by
  rw [indexSum, BitVec.toNat_and, show BitVec.toNat (0x0FFF : Word) = 2 ^ 12 - 1 from rfl, Nat.and_two_pow_sub_one_eq_mod]
  simp

theorem fontAddr_toNat (b : Byte) : (fontAddr b).toNat = 0x050 + 5 * b.toNat := by
  have := b.isLt
  simp only [fontAddr, Config.fontBase, BitVec.toNat_ofNat]; omega

@[simp] theorem length_bcdDigits (b : Byte) : (bcdDigits b).length = 3 := rfl

theorem bcdDigits_toNat (b : Byte) :
    (bcdDigits b).map BitVec.toNat = [b.toNat / 100, b.toNat / 10 % 10, b.toNat % 10] := by
  have := b.isLt
  simp [bcdDigits]; omega

theorem keyIndex_val (b : Byte) : (keyIndex b).val = b.toNat % 16 := rfl

/-- A taken skip leaves `PC` 4 after the instruction, a skip not taken 2 after it. -/
theorem State.pc_skipIf_advancePC (c : Bool) (s : State) :
    (s.advancePC.skipIf c).pc = if c then s.pc + 4 else s.pc + 2 := by
  cases c
  · rfl
  · show s.pc + 2 + 2 = s.pc + 4
    rw [BitVec.add_assoc]; rfl

/-! ### Flags -/

theorem b2i_eq_one_or_zero (c : Bool) : b2i c = 0 ∨ b2i c = 1 := by cases c <;> simp [b2i]

theorem carry_iff (a b : Byte) : carry a b = true ↔ a.toNat + b.toNat > 255 := by simp [carry]

theorem noBorrow_iff (a b : Byte) : noBorrow a b = true ↔ a.toNat ≥ b.toNat := by simp [noBorrow]

theorem shiftedOutRight_iff (a : Byte) : shiftedOutRight a = true ↔ a.toNat % 2 = 1 := by
  simp [shiftedOutRight, BitVec.getLsbD, Nat.testBit_zero]

theorem shiftedOutLeft_iff (a : Byte) : shiftedOutLeft a = true ↔ a.toNat ≥ 128 := by
  have := a.isLt
  simp [shiftedOutLeft, BitVec.getLsbD, Nat.testBit_eq_decide_div_mod_eq]; omega

end Sys2Proof.Machine
end

