-- ==== Sys2Proof/Laws/PerInstr.lean ====
section
/-!
SUPPORT. Statements made per instruction. TableRow: the encoding of every instruction, masked by its row's mask in
spec/opcode_table.json, is its row's match (spec/30_encoding.md section 4).
-/

namespace Sys2Proof

/-- The columns `mask` and `match` of an instruction's row. -/
def Instr.tableRow : Instr → Word × Word
  | .sysAddr _ => (0xF000, 0x0000)
  | .cls => (0xFFFF, 0x00E0)
  | .ret => (0xFFFF, 0x00EE)
  | .jpAddr _ => (0xF000, 0x1000)
  | .callAddr _ => (0xF000, 0x2000)
  | .seByte _ _ => (0xF000, 0x3000)
  | .sneByte _ _ => (0xF000, 0x4000)
  | .seReg _ _ => (0xF00F, 0x5000)
  | .ldByte _ _ => (0xF000, 0x6000)
  | .addByte _ _ => (0xF000, 0x7000)
  | .ldReg _ _ => (0xF00F, 0x8000)
  | .orReg _ _ => (0xF00F, 0x8001)
  | .andReg _ _ => (0xF00F, 0x8002)
  | .xorReg _ _ => (0xF00F, 0x8003)
  | .addReg _ _ => (0xF00F, 0x8004)
  | .subReg _ _ => (0xF00F, 0x8005)
  | .shr _ _ => (0xF00F, 0x8006)
  | .subnReg _ _ => (0xF00F, 0x8007)
  | .shl _ _ => (0xF00F, 0x800E)
  | .sneReg _ _ => (0xF00F, 0x9000)
  | .ldI _ => (0xF000, 0xA000)
  | .jpV0 _ => (0xF000, 0xB000)
  | .rnd _ _ => (0xF000, 0xC000)
  | .drw _ _ _ => (0xF000, 0xD000)
  | .skp _ => (0xF0FF, 0xE09E)
  | .sknp _ => (0xF0FF, 0xE0A1)
  | .ldVxDT _ => (0xF0FF, 0xF007)
  | .ldVxK _ => (0xF0FF, 0xF00A)
  | .ldDTVx _ => (0xF0FF, 0xF015)
  | .ldSTVx _ => (0xF0FF, 0xF018)
  | .addI _ => (0xF0FF, 0xF01E)
  | .ldF _ => (0xF0FF, 0xF029)
  | .ldB _ => (0xF0FF, 0xF033)
  | .storeRegs _ => (0xF0FF, 0xF055)
  | .loadRegs _ => (0xF0FF, 0xF065)

/-- An encoding fits its row of the opcode table. -/
def Laws.TableRow.Statement (i : Instr) : Prop := encode i &&& i.tableRow.1 = i.tableRow.2

namespace Laws.TableRow

theorem formatAddr_and (f : BitVec 4) (nnn : Addr) : formatAddr f nnn &&& 0xF000 = formatAddr f 0 := by
  show (f ++ nnn) &&& (0xF#4 ++ 0#12) = f ++ 0#12
  rw [BitVec.and_append, BitVec.and_zero]; congr 1; exact BitVec.and_allOnes

theorem formatXKK_and_family (f : BitVec 4) (x : Reg) (kk : Byte) : formatXKK f x kk &&& 0xF000 = formatXKK f 0 0 := by
  show (f ++ BitVec.ofFin (w := 4) x ++ kk) &&& (0xF#4 ++ 0#4 ++ 0#8) = f ++ 0#4 ++ 0#8
  rw [BitVec.and_append, BitVec.and_append, BitVec.and_zero, BitVec.and_zero]; congr 2; exact BitVec.and_allOnes

theorem formatXKK_and (f : BitVec 4) (x : Reg) (kk : Byte) : formatXKK f x kk &&& 0xF0FF = formatXKK f 0 kk := by
  show (f ++ BitVec.ofFin (w := 4) x ++ kk) &&& (0xF#4 ++ 0#4 ++ 0xFF#8) = f ++ 0#4 ++ kk
  rw [BitVec.and_append, BitVec.and_append, BitVec.and_zero]
  congr 1
  · congr 1; exact BitVec.and_allOnes
  · exact BitVec.and_allOnes

theorem formatXYN_and_family (f : BitVec 4) (x y n : Fin 16) : formatXYN f x y n &&& 0xF000 = formatXYN f 0 0 0 := by
  show (f ++ BitVec.ofFin (w := 4) x ++ BitVec.ofFin (w := 4) y ++ BitVec.ofFin (w := 4) n) &&& (0xF#4 ++ 0#4 ++ 0#4 ++ 0#4)
    = f ++ 0#4 ++ 0#4 ++ 0#4
  rw [BitVec.and_append, BitVec.and_append, BitVec.and_append, BitVec.and_zero, BitVec.and_zero, BitVec.and_zero]
  congr 3; exact BitVec.and_allOnes

theorem formatXYN_and (f : BitVec 4) (x y n : Fin 16) : formatXYN f x y n &&& 0xF00F = formatXYN f 0 0 n := by
  show (f ++ BitVec.ofFin (w := 4) x ++ BitVec.ofFin (w := 4) y ++ BitVec.ofFin (w := 4) n) &&& (0xF#4 ++ 0#4 ++ 0#4 ++ 0xF#4)
    = f ++ 0#4 ++ 0#4 ++ BitVec.ofFin (w := 4) n
  rw [BitVec.and_append, BitVec.and_append, BitVec.and_append, BitVec.and_zero, BitVec.and_zero]
  congr 1
  · congr 2; exact BitVec.and_allOnes
  · exact BitVec.and_allOnes

theorem sysAddr (nnn : Addr) : Statement (.sysAddr nnn) := formatAddr_and _ nnn
theorem cls : Statement (.cls) := rfl
theorem ret : Statement (.ret) := rfl
theorem jpAddr (nnn : Addr) : Statement (.jpAddr nnn) := formatAddr_and _ nnn
theorem callAddr (nnn : Addr) : Statement (.callAddr nnn) := formatAddr_and _ nnn
theorem seByte (x : Reg) (kk : Byte) : Statement (.seByte x kk) := formatXKK_and_family _ x kk
theorem sneByte (x : Reg) (kk : Byte) : Statement (.sneByte x kk) := formatXKK_and_family _ x kk
theorem seReg (x y : Reg) : Statement (.seReg x y) := formatXYN_and _ x y _
theorem ldByte (x : Reg) (kk : Byte) : Statement (.ldByte x kk) := formatXKK_and_family _ x kk
theorem addByte (x : Reg) (kk : Byte) : Statement (.addByte x kk) := formatXKK_and_family _ x kk
theorem ldReg (x y : Reg) : Statement (.ldReg x y) := formatXYN_and _ x y _
theorem orReg (x y : Reg) : Statement (.orReg x y) := formatXYN_and _ x y _
theorem andReg (x y : Reg) : Statement (.andReg x y) := formatXYN_and _ x y _
theorem xorReg (x y : Reg) : Statement (.xorReg x y) := formatXYN_and _ x y _
theorem addReg (x y : Reg) : Statement (.addReg x y) := formatXYN_and _ x y _
theorem subReg (x y : Reg) : Statement (.subReg x y) := formatXYN_and _ x y _
theorem shr (x y : Reg) : Statement (.shr x y) := formatXYN_and _ x y _
theorem subnReg (x y : Reg) : Statement (.subnReg x y) := formatXYN_and _ x y _
theorem shl (x y : Reg) : Statement (.shl x y) := formatXYN_and _ x y _
theorem sneReg (x y : Reg) : Statement (.sneReg x y) := formatXYN_and _ x y _
theorem ldI (nnn : Addr) : Statement (.ldI nnn) := formatAddr_and _ nnn
theorem jpV0 (nnn : Addr) : Statement (.jpV0 nnn) := formatAddr_and _ nnn
theorem rnd (x : Reg) (kk : Byte) : Statement (.rnd x kk) := formatXKK_and_family _ x kk
theorem drw (x y : Reg) (n : Fin 16) : Statement (.drw x y n) := formatXYN_and_family _ x y n
theorem skp (x : Reg) : Statement (.skp x) := formatXKK_and _ x _
theorem sknp (x : Reg) : Statement (.sknp x) := formatXKK_and _ x _
theorem ldVxDT (x : Reg) : Statement (.ldVxDT x) := formatXKK_and _ x _
theorem ldVxK (x : Reg) : Statement (.ldVxK x) := formatXKK_and _ x _
theorem ldDTVx (x : Reg) : Statement (.ldDTVx x) := formatXKK_and _ x _
theorem ldSTVx (x : Reg) : Statement (.ldSTVx x) := formatXKK_and _ x _
theorem addI (x : Reg) : Statement (.addI x) := formatXKK_and _ x _
theorem ldF (x : Reg) : Statement (.ldF x) := formatXKK_and _ x _
theorem ldB (x : Reg) : Statement (.ldB x) := formatXKK_and _ x _
theorem storeRegs (x : Reg) : Statement (.storeRegs x) := formatXKK_and _ x _
theorem loadRegs (x : Reg) : Statement (.loadRegs x) := formatXKK_and _ x _

end Laws.TableRow

end Sys2Proof
end

