-- ==== Sys2Proof/Tests/Slice0.lean ====
section
/-!
SUPPORT. The model's own tests: ill-formed terms, the decoding of words written out from the opcode map
(spec/30_encoding.md section 4, spec/95_test_vectors.md L2.1), one step each of vectors of spec/95_test_vectors.md (the tables
L1.2 to L2.10 named beside them), and, for every obligation with hypotheses, a state and operands that meet them.
-/

namespace Sys2Proof.Machine

/-! ### Helpers -/

/-- The state after reset with the word placed where the next step fetches it. -/
def withWord (w : Nat) (s : State) : State := s.withFetchWord 16 w

/-- A field of the state after one step. -/
def afterStep {α : Type} (s : State) (f : State → α) : Option α :=
  match step s with
  | .next t => some (f t)
  | .fault _ => none
  | .refused _ => none

/-- Reset with some registers and `I` set, and bytes stored at `I`. -/
def startWith (regs : List (Reg × Byte)) (i : Word) (bytes : List Byte) : State :=
  (regs.foldl (fun s p => s.setV p.1 p.2) (State.reset.setI i)).loadBytes i.toNat bytes

/-! ### Well-formedness -/

theorem test_sys_0E0_ill_formed : (Instr.sysAddr 0x0E0).wellFormed = false := by decide
theorem test_sys_0EE_ill_formed : (Instr.sysAddr 0x0EE).wellFormed = false := by decide
theorem test_sys_0E1_well_formed : (Instr.sysAddr 0x0E1).wellFormed = true := by decide

/-! ### Decoding, every constructor once (95_test_vectors.md L2.1; the SYS words also R65) -/

theorem test_decode_family0 :
    decodeTableWord 16 0x0000 = some (.sysAddr 0x000) ∧ decodeTableWord 16 0x00E0 = some .cls ∧
    decodeTableWord 16 0x00EE = some .ret ∧ decodeTableWord 16 0x00EF = some (.sysAddr 0x0EF) ∧
    decodeTableWord 16 0x0FFF = some (.sysAddr 0xFFF) := by decide
theorem test_decode_addr :
    decodeTableWord 16 0x1234 = some (.jpAddr 0x234) ∧ decodeTableWord 16 0x2ABC = some (.callAddr 0xABC) ∧
    decodeTableWord 16 0xA123 = some (.ldI 0x123) ∧ decodeTableWord 16 0xB123 = some (.jpV0 0x123) := by decide
theorem test_decode_xkk :
    decodeTableWord 16 0x3A7F = some (.seByte 10 0x7F) ∧ decodeTableWord 16 0x4A7F = some (.sneByte 10 0x7F) ∧
    decodeTableWord 16 0x6A7F = some (.ldByte 10 0x7F) ∧ decodeTableWord 16 0x7A7F = some (.addByte 10 0x7F) ∧
    decodeTableWord 16 0xC1F0 = some (.rnd 1 0xF0) := by decide
theorem test_decode_xy :
    decodeTableWord 16 0x5AB0 = some (.seReg 10 11) ∧ decodeTableWord 16 0x9AB0 = some (.sneReg 10 11) ∧
    decodeTableWord 16 0x8AB0 = some (.ldReg 10 11) ∧ decodeTableWord 16 0x8AB1 = some (.orReg 10 11) ∧
    decodeTableWord 16 0x8AB2 = some (.andReg 10 11) ∧ decodeTableWord 16 0x8AB3 = some (.xorReg 10 11) ∧
    decodeTableWord 16 0x8AB4 = some (.addReg 10 11) ∧ decodeTableWord 16 0x8AB5 = some (.subReg 10 11) ∧
    decodeTableWord 16 0x8AB6 = some (.shr 10 11) ∧ decodeTableWord 16 0x8AB7 = some (.subnReg 10 11) ∧
    decodeTableWord 16 0x8ABE = some (.shl 10 11) := by decide
theorem test_decode_drw :
    decodeTableWord 16 0xD125 = some (.drw 1 2 5) ∧ decodeTableWord 16 0xD120 = some (.drw 1 2 0) := by decide
theorem test_decode_family_e :
    decodeTableWord 16 0xE19E = some (.skp 1) ∧ decodeTableWord 16 0xE1A1 = some (.sknp 1) := by decide
theorem test_decode_family_f :
    decodeTableWord 16 0xF107 = some (.ldVxDT 1) ∧ decodeTableWord 16 0xF10A = some (.ldVxK 1) ∧
    decodeTableWord 16 0xF115 = some (.ldDTVx 1) ∧ decodeTableWord 16 0xF118 = some (.ldSTVx 1) ∧
    decodeTableWord 16 0xF11E = some (.addI 1) ∧ decodeTableWord 16 0xF129 = some (.ldF 1) ∧
    decodeTableWord 16 0xF133 = some (.ldB 1) ∧ decodeTableWord 16 0xF155 = some (.storeRegs 1) ∧
    decodeTableWord 16 0xFF65 = some (.loadRegs 15) := by decide
theorem test_decode_undefined :
    decode 0x5AB1 = .error .undefined ∧ decode 0x8AB8 = .error .undefined ∧ decode 0x8ABF = .error .undefined ∧
    decode 0x9AB1 = .error .undefined ∧ decode 0xE19F = .error .undefined ∧ decode 0xF1FF = .error .undefined := by decide
theorem test_decode_truncated : decodeBytes [0x12] = .error .truncated := by decide
/-- The first byte of memory is the more significant one (R46, L2.1). -/
theorem test_decode_byte_order : decodeBytes [0x12, 0x34, 0xFF] = .ok (.jpAddr 0x234, [0xFF]) := by decide

/-- Spellings of 95_test_vectors.md part 3. -/
theorem test_assembly :
    (Instr.ldByte 0 0xFE).assembly = "LD V0, 0xFE" ∧ (Instr.loadRegs 2).assembly = "LD V2, [I]" ∧
    (Instr.callAddr 0x210).assembly = "CALL 0x210" ∧ Instr.ret.assembly = "RET" := by decide

/-- The codes of the fault kinds (R200). -/
theorem test_fault_codes :
    FaultKind.decodeFailure.code = 1 ∧ FaultKind.stackOverflow.code = 2 ∧ FaultKind.stackUnderflow.code = 3 ∧
    FaultKind.memoryRange.code = 4 := by decide

/-! ### Jump, call, return (L2.2) -/

theorem test_jp : afterStep (withWord 0x1FFF State.reset) (·.pc) = some 0x0FFF := by decide
theorem test_jp_v0_unmasked : afterStep (withWord 0xBFFF (State.reset.setV 0 0xFF)) (·.pc) = some 0x10FE := by decide
theorem test_call :
    afterStep (withWord 0x2210 (State.reset.setPC 0x0208)) (fun t => (t.stack[0], t.sp.val, t.pc)) = some (0x020A, 1, 0x0210) := by
  decide
theorem test_call_full :
    afterStep (withWord 0x2400 { State.reset with sp := 16, pc := 0x0300 }) (fun t => (t.fault, t.sp.val, t.pc)) =
      some (⟨.stackOverflow, 0x2400, 0x0300⟩, 16, 0x0300) := by decide
theorem test_ret :
    afterStep (withWord 0x00EE { State.reset with sp := 1, stack := State.reset.stack.set 0 0x020A, pc := 0x0214 })
      (fun t => (t.sp.val, t.pc)) = some (0, 0x020A) := by decide
theorem test_ret_empty :
    afterStep (withWord 0x00EE State.reset) (fun t => (t.halted, t.fault)) = some (true, ⟨.stackUnderflow, 0x00EE, 0x0200⟩) := by
  decide

/-! ### Skips (L2.3, L2.8) -/

theorem test_se_byte_skips : afterStep (withWord 0x3100 (State.reset.setPC 0x0208)) (·.pc) = some 0x020C := by decide
theorem test_sne_byte_equal : afterStep (withWord 0x4A07 (State.reset.setV 10 0x07)) (·.pc) = some 0x0202 := by decide
theorem test_se_reg_differs :
    afterStep (withWord 0x5120 (startWith [(1, 0x33), (2, 0x34)] 0 [])) (·.pc) = some 0x0202 := by decide
theorem test_sne_reg_differs :
    afterStep (withWord 0x9120 (startWith [(1, 0x01), (2, 0x02)] 0 [])) (·.pc) = some 0x0204 := by decide
/-- The key event of the same cycle is already seen, and the high nibble of the register is ignored. -/
theorem test_skp_sees_event :
    afterStep (withWord 0xE19E { State.reset.setV 1 0x17 with keyInput := [[⟨7, true⟩]], pc := 0x0220 }) (·.pc) = some 0x0224 := by
  decide
theorem test_sknp_sees_event :
    afterStep (withWord 0xE1A1 { State.reset.setV 1 0x07 with keyInput := [[⟨7, true⟩]], pc := 0x0220 }) (·.pc) = some 0x0222 := by
  decide

/-! ### Loads (L2.4) -/

theorem test_ld_byte : afterStep (withWord 0x6FAA State.reset) (·.getV VF) = some 0xAA := by decide
theorem test_ld_reg : afterStep (withWord 0x8120 (State.reset.setV 2 0x7E)) (·.getV 1) = some 0x7E := by decide
theorem test_ld_i : afterStep (withWord 0xAFFF State.reset) (·.i) = some 0x0FFF := by decide
theorem test_ld_vx_dt :
    afterStep (withWord 0xF207 (State.reset.setDT 0x03)) (fun t => (t.getV 2, t.dt)) = some (0x03, 0x02) := by decide
theorem test_ld_dt_vx : afterStep (withWord 0xF015 (State.reset.setV 0 0x03)) (·.dt) = some 0x02 := by decide
theorem test_ld_dt_zero : afterStep (withWord 0xF015 (State.reset.setDT 0x09)) (·.dt) = some 0x00 := by decide
theorem test_ld_st_vx : afterStep (withWord 0xF318 (State.reset.setV 3 0x03)) (·.st) = some 0x02 := by decide
theorem test_ld_vx_k :
    afterStep (withWord 0xF40A (State.reset.setPC 0x0210)) (fun t => (t.kw, t.pc)) = some (⟨true, 4⟩, 0x0212) := by decide
theorem test_ld_f : afterStep (withWord 0xF029 (State.reset.setV 0 0x05)) (·.i) = some 0x0069 := by decide
theorem test_ld_f_above_15 : afterStep (withWord 0xF029 (State.reset.setV 0 0xFF)) (·.i) = some 0x054B := by decide
theorem test_ld_b_top :
    afterStep (withWord 0xF033 (startWith [(0, 0xFF)] 0x0FFD []))
      (fun t => (t.mem.byteAt 0xFFD, t.mem.byteAt 0xFFE, t.mem.byteAt 0xFFF)) = some (0x02, 0x05, 0x05) := by decide
theorem test_ld_b_out_of_range :
    afterStep (withWord 0xF033 (startWith [(0, 0xFF)] 0x0FFE [])) (fun t => (t.fault, t.mem.byteAt 0xFFE)) =
      some (⟨.memoryRange, 0xF033, 0x0200⟩, 0x00) := by decide
theorem test_store_regs :
    afterStep (withWord 0xF255 (startWith [(0, 0x11), (1, 0x22), (2, 0x33), (3, 0x44)] 0x0400 []))
      (fun t => (t.mem.byteAt 0x400, t.mem.byteAt 0x402, t.mem.byteAt 0x403, t.i)) = some (0x11, 0x33, 0x00, 0x0400) := by decide
theorem test_load_regs :
    afterStep (withWord 0xF265 (startWith [(3, 0x44)] 0x0300 [0x02, 0x05, 0x04, 0x09]))
      (fun t => (t.getV 0, t.getV 1, t.getV 2, t.getV 3)) = some (0x02, 0x05, 0x04, 0x44) := by decide

/-! ### Arithmetic and logic (L2.5) -/

theorem test_add_byte_no_flag :
    afterStep (withWord 0x7001 (State.reset.setV 0 0xFF)) (fun t => (t.getV 0, t.getV VF)) = some (0x00, 0x00) := by decide
theorem test_add_reg_carry :
    afterStep (withWord 0x8014 (startWith [(0, 0xFF), (1, 0x01)] 0 [])) (fun t => (t.getV 0, t.getV VF)) = some (0x00, 0x01) := by
  decide
theorem test_add_reg_flag_last :
    afterStep (withWord 0x8F14 (startWith [(15, 0xFF), (1, 0x01)] 0 [])) (·.getV VF) = some 0x01 := by decide
theorem test_or :
    afterStep (withWord 0x8121 (startWith [(1, 0xF0), (2, 0x0F), (15, 0x01)] 0 [])) (fun t => (t.getV 1, t.getV VF)) =
      some (0xFF, 0x01) := by decide
theorem test_and : afterStep (withWord 0x8122 (startWith [(1, 0xF3), (2, 0x3F)] 0 [])) (·.getV 1) = some 0x33 := by decide
theorem test_xor : afterStep (withWord 0x8123 (startWith [(1, 0xFF), (2, 0x0F)] 0 [])) (·.getV 1) = some 0xF0 := by decide
theorem test_sub_borrow :
    afterStep (withWord 0x81F5 (startWith [(1, 0x01), (15, 0x05)] 0 [])) (fun t => (t.getV 1, t.getV VF)) = some (0xFC, 0x00) := by
  decide
theorem test_sub_equal :
    afterStep (withWord 0x8015 (startWith [(0, 0x05), (1, 0x05)] 0 [])) (fun t => (t.getV 0, t.getV VF)) = some (0x00, 0x01) := by
  decide
theorem test_subn :
    afterStep (withWord 0x8017 (startWith [(0, 0x05), (1, 0x03)] 0 [])) (fun t => (t.getV 0, t.getV VF)) = some (0xFE, 0x00) := by
  decide
theorem test_shr :
    afterStep (withWord 0x8126 (startWith [(1, 0x05), (2, 0xFF)] 0 [])) (fun t => (t.getV 1, t.getV VF, t.getV 2)) =
      some (0x02, 0x01, 0xFF) := by decide
theorem test_shl :
    afterStep (withWord 0x812E (State.reset.setV 1 0x81)) (fun t => (t.getV 1, t.getV VF)) = some (0x02, 0x01) := by decide
theorem test_add_i_masks :
    afterStep (withWord 0xF01E (startWith [(0, 0xFF)] 0x0F80 [])) (fun t => (t.i, t.getV VF)) = some (0x007F, 0x00) := by decide

/-! ### Random, display, SYS (L2.6, L2.7, L2.9) -/

/-- Mask 0x00: 0x00 whatever the draw. -/
theorem test_rnd_mask_zero : ∃ t, exec (.rnd 5 0x00) (State.reset.setV 5 0xFF) = .next t ∧ t.getV 5 = 0x00 :=
  ⟨_, rfl, BitVec.and_zero (x := Config.rndByte 0)⟩
theorem test_rnd_draws_once : afterStep (withWord 0xC30F State.reset) (fun t => (t.draws, t.pc)) = some (1, 0x0202) := by decide
/-- Columns 60 to 67 of row 0: the last four wrap to columns 0 to 3 of the same row. -/
theorem test_drw_wraps_columns :
    afterStep (withWord 0xD011 (startWith [(0, 0x3C)] 0x0300 [0xFF])) (fun t => (t.fb[0], t.fb[1], t.getV VF)) =
      some (0xF00000000000000F, 0, 0x00) := by decide
/-- The coordinates are read before `VF` is written. -/
theorem test_drw_reads_vf_first :
    afterStep (withWord 0xDFF1 (startWith [(15, 0x02)] 0x0300 [0x80])) (fun t => (t.fb.at 130, t.getV VF)) = some (true, 0x00) := by
  decide
theorem test_cls :
    afterStep (withWord 0x00E0 (State.reset.setFB ((FrameBuffer.clear).toggle (63, 31)))) (fun t => t.fb.at 2047) = some false := by
  decide
theorem test_sys_halts :
    afterStep (withWord 0x0123 State.reset) (fun t => (t.halted, t.fault, t.pc)) =
      some (true, ⟨.decodeFailure, 0x0123, 0x0200⟩, 0x0200) := by decide
theorem test_undefined_halts :
    afterStep (withWord 0x8128 State.reset) (fun t => (t.halted, t.fault)) = some (true, ⟨.decodeFailure, 0x8128, 0x0200⟩) := by
  decide
/-- From reset with nothing loaded the first word is `SYS 0x000` (R195). -/
theorem test_reset_runs_into_sys : afterStep State.reset (·.fault) = some ⟨.decodeFailure, 0x0000, 0x0200⟩ := by decide

/-! ### Cycles: key wait and timers (L1.6, L1.7) -/

theorem test_key_wait_first_down :
    afterStep { State.reset with kw := ⟨true, 5⟩, pc := 0x0202, keyInput := [[⟨3, false⟩, ⟨9, true⟩, ⟨2, true⟩]] }
      (fun t => (t.getV 5, t.kw.latched, t.pc, t.key[2])) = some (0x09, false, 0x0202, true) := by decide
theorem test_sound_one_pauses :
    (tickSound { State.reset with st := 1 }).out = [.pause] ∧ (tickSound { State.reset with st := 2 }).out = [.play] := by decide

/-! ### The load port and the default font (L1.8) -/

theorem test_boot :
    (State.boot defaultFont [0x12, 0x34, 0xAB]).map (fun s => (s.mem.byteAt 0x200, s.mem.byteAt 0x202, s.mem.byteAt 0x050,
      s.mem.byteAt 0x09F, s.mem.byteAt 0x0A0)) = some (0x12, 0xAB, 0xF0, 0x80, 0x00) := by decide

/-! ### Witnesses: states and operands that meet the hypotheses of the obligations -/

/-- A step that answers a next state, from a check that evaluates. -/
theorem exists_next {s : State} (f : State → Bool) (h : afterStep s f = some true) : ∃ t, step s = .next t ∧ f t = true := by
  unfold afterStep at h
  split at h
  · next t ht => exact ⟨t, ht, by simpa using h⟩
  · cases h
  · cases h

/-- A core about to execute the word. -/
theorem willExecute_of {s : State} {i : Instr} (w : Word) (h : s.halted = false) (hk : s.kw.latched = false)
    (hf : fetchWord s = some w) (hd : decode w = .ok i) : s.WillExecute i := ⟨h, hk, w, hf, hd⟩

theorem witness_DecodeOfEncode : (Instr.sysAddr 0x0E1).wellFormed = true ∧ (Instr.drw 15 15 15).wellFormed = true := by decide

theorem witness_EncodeOfDecode : decode 0xFF65 = .ok (.loadRegs 15) := by decide

/-- Each clause at the ends of its range, and the words beside them that are instructions. -/
theorem witness_UndefinedWordsAreThoseListed :
    decode 0x5001 = .error .undefined ∧ decode 0x5FFF = .error .undefined ∧ decode 0x8008 = .error .undefined ∧
    decode 0x8FFF = .error .undefined ∧ decode 0x9001 = .error .undefined ∧ decode 0xE000 = .error .undefined ∧
    decode 0xFFFF = .error .undefined ∧ decode 0x5000 = .ok (.seReg 0 0) ∧ decode 0x8FFE = .ok (.shl 15 15) := by decide

theorem witness_MemReadAfterMemWrite_top : Memory.wf [(0xFFF, 0x07)] = true ∧ 0xFFF ≤ 0xFFF := by decide
theorem witness_MemReadAfterMemWrite_above : 0xFFF < 0x1000 ∧ memRead [] 0x1000 = none := by decide

theorem witness_MemoriesThatReadAlikeAreEqual :
    ∃ m m' : Memory, m.wf = true ∧ m'.wf = true ∧ ∀ a, m.byteAt a = m'.byteAt a :=
  ⟨[(5, 1)], Memory.store (Memory.store [] 5 2) 5 1, by decide, by decide, fun _ => rfl⟩

theorem witness_FetchAssemblesTwoBytes_last : (State.reset.setPC 0xFFE).pc.toNat < 0xFFF := by decide
theorem witness_FetchAssemblesTwoBytes_out : 0xFFF ≤ (State.reset.setPC 0xFFF).pc.toNat := by decide

theorem witness_ResetValues :
    ∃ s t : State, s.halted = true ∧ (t = State.reset ∨ t = s.resetEvent) :=
  ⟨{ State.reset with halted := true }, _, rfl, .inr rfl⟩

theorem witness_LoadRoundTrip : (List.replicate 3584 (0xAB : Byte)).length ≤ 3584 :=
  Nat.le_of_eq List.length_replicate
theorem witness_LoadRefusesLongImage : 3584 < (List.replicate 3585 (0xAB : Byte)).length :=
  Nat.lt_of_lt_of_eq (by decide : 3584 < 3585) List.length_replicate.symm

theorem witness_InvariantAtStart : ∃ s, State.boot defaultFont [0x12, 0x00] = some s := ⟨_, rfl⟩

theorem witness_StepKeepsInvariant : (withWord 0x1200 State.reset).Inv ∧ ∃ t, step (withWord 0x1200 State.reset) = .next t :=
  ⟨⟨by decide, by decide, by decide, by decide⟩, (exists_next (fun _ => true) (by decide)).imp fun _ h => h.1⟩

theorem witness_StepExecutesDecodedInstruction :
    ∃ u, (withWord 0x8014 State.reset).WillExecute (.addReg 0 1) ∧ exec (.addReg 0 1) (withWord 0x8014 State.reset).afterEvents = .next u :=
  ⟨_, willExecute_of 0x8014 rfl rfl (by decide) (by decide), rfl⟩

theorem witness_UndefinedWordHalts :
    (withWord 0xF175 State.reset).halted = false ∧ (withWord 0xF175 State.reset).kw.latched = false ∧
    fetchWord (withWord 0xF175 State.reset) = some 0xF175 ∧ decode 0xF175 = .error .undefined := by decide

theorem witness_FetchOutOfRangeHalts :
    (State.reset.setPC 0xFFF).halted = false ∧ (State.reset.setPC 0xFFF).kw.latched = false ∧
    0xFFF ≤ (State.reset.setPC 0xFFF).pc.toNat := by decide

theorem witness_UnpairedOperationHalts : ∀ i : Instr, i.pair ≠ (.DRW, .none) := by
  intro i; cases i <;> simp [Instr.pair]

theorem witness_HaltedCoreStaysHalted :
    ({ State.reset with halted := true, keyInput := [[⟨4, true⟩]] } : State).halted = true ∧ 0 < 3 := by decide

theorem witness_InstructionFaultsExactlyAsTabled_faults :
    faultMet (.sysAddr 0) State.reset = some .decodeFailure ∧
    faultMet (.callAddr 0) { State.reset with sp := 16 } = some .stackOverflow ∧
    faultMet .ret State.reset = some .stackUnderflow ∧
    faultMet (.drw 0 0 2) (State.reset.setI 0xFFF) = some .memoryRange ∧
    faultMet (.ldB 0) (State.reset.setI 0xFFE) = some .memoryRange ∧
    faultMet (.storeRegs 15) (State.reset.setI 0xFF1) = some .memoryRange ∧
    faultMet (.loadRegs 15) (State.reset.setI 0xFF1) = some .memoryRange := by decide
theorem witness_InstructionFaultsExactlyAsTabled_completes :
    faultMet (.callAddr 0) { State.reset with sp := 15 } = none ∧ faultMet .ret { State.reset with sp := 1 } = none ∧
    faultMet (.drw 0 0 1) (State.reset.setI 0xFFF) = none ∧ faultMet (.drw 0 0 0) (State.reset.setI 0xFFF) = none ∧
    faultMet (.ldB 0) (State.reset.setI 0xFFD) = none ∧ faultMet (.storeRegs 15) (State.reset.setI 0xFF0) = none ∧
    faultMet (.loadRegs 15) (State.reset.setI 0xFF0) = none ∧ faultMet .cls State.reset = none := by decide

theorem witness_FaultingCycleIsPrecise :
    State.reset.halted = false ∧ ∃ t, step State.reset = .next t ∧ t.halted = true :=
  ⟨rfl, exists_next (·.halted) (by decide)⟩

theorem witness_KeyEventsAreAppliedInOrder_wakes :
    ({ State.reset with kw := ⟨true, 5⟩ } : State).kw.latched = true ∧
    firstKeyDown [⟨3, false⟩, ⟨9, true⟩, ⟨2, true⟩] = some ⟨9, true⟩ := by decide
theorem witness_KeyEventsAreAppliedInOrder_no_wake :
    State.reset.kw.latched = false ∧ firstKeyDown [⟨3, false⟩] = none := by decide

theorem witness_WaitingCycle :
    ({ State.reset with kw := ⟨true, 5⟩ } : State).halted = false ∧ ({ State.reset with kw := ⟨true, 5⟩ } : State).kw.latched = true ∧
    firstKeyDown ({ State.reset with kw := ⟨true, 5⟩ } : State).nextEvents = none ∧
    firstKeyDown ({ State.reset with kw := ⟨true, 5⟩, keyInput := [[⟨9, true⟩]] } : State).nextEvents = some ⟨9, true⟩ := by decide

theorem witness_KeyWaitNeverTimesOut :
    ({ State.reset with kw := ⟨true, 5⟩, keyInput := [[⟨3, false⟩], []] } : State).kw.latched = true ∧
    ∀ batch ∈ [[(⟨3, false⟩ : KeyEvent)], []], ∀ e ∈ batch, e.pressed = false := by decide

/-- A waiting core, and cores about to execute `LD DT, V0` and `LD V2, DT`. -/
theorem witness_DelayTimerTicksOncePerCycle :
    (∃ s u : State, s.AfterStepTwo u ∧ u.dt = 1) ∧ (withWord 0xF015 State.reset).WillExecute (.ldDTVx 0) ∧
    (withWord 0xF207 State.reset).WillExecute (.ldVxDT 2) :=
  ⟨⟨{ State.reset with kw := ⟨true, 5⟩, dt := 1 }, _, .inl ⟨rfl, rfl, rfl⟩, rfl⟩,
    willExecute_of 0xF015 rfl rfl (by decide) (by decide), willExecute_of 0xF207 rfl rfl (by decide) (by decide)⟩

/-- `ST` after step 2 at 2, 1 and 0: an executed `LD ST, V3`, and waiting cores. -/
theorem witness_AudioFollowsSoundTimer :
    (∃ s u : State, s.AfterStepTwo u ∧ u.st = 2) ∧ (∃ s u : State, s.AfterStepTwo u ∧ u.st = 1) ∧
    (∃ s u : State, s.AfterStepTwo u ∧ u.st = 0) :=
  ⟨⟨withWord 0xF318 (State.reset.setV 3 2), _,
      .inr ⟨.ldSTVx 3, willExecute_of 0xF318 rfl rfl (by decide) (by decide), rfl, rfl⟩, rfl⟩,
    ⟨{ State.reset with kw := ⟨true, 5⟩, st := 1 }, _, .inl ⟨rfl, rfl, rfl⟩, rfl⟩,
    ⟨{ State.reset with kw := ⟨true, 5⟩ }, _, .inl ⟨rfl, rfl, rfl⟩, rfl⟩⟩

theorem witness_CommandsLeaveInOrder :
    (withWord 0x00E0 State.reset).halted = false ∧ ∃ t, step (withWord 0x00E0 State.reset) = .next t ∧ t.halted = false :=
  ⟨rfl, (exists_next (!·.halted) (by decide)).imp fun _ h => ⟨h.1, by simpa using h.2⟩⟩

theorem witness_SelfJumpSpins : (withWord 0x1200 State.reset).AtSelfJump :=
  ⟨0x200, willExecute_of 0x1200 rfl rfl (by decide) (by decide), by decide⟩

theorem witness_FetchSeesStoredRegisters :
    ∃ s t : State, s.mem.wf = true ∧ s.i.toNat + (1 : Reg).val ≤ 0xFFF ∧ exec (.storeRegs 1) s = .next t ∧
      (0 : Reg).val + 1 ≤ (1 : Reg).val ∧ t.pc.toNat = s.i.toNat + (0 : Reg).val :=
  ⟨startWith [(0, 0x62), (1, 0xAB)] 0x0202 [], _, by decide, by decide, rfl, by decide, by decide⟩

theorem witness_InstructionsWriteOnlyTheirParts : ∃ t, exec (.storeRegs 15) (State.reset.setI 0x300) = .next t := ⟨_, rfl⟩

theorem witness_ProgramCounterWriters :
    (∃ t, exec (.sysAddr 0) State.reset = .next t ∧ State.reset.halted = false ∧ t.halted = true) ∧
    (∃ t, exec (.seByte 0 0) State.reset = .next t ∧ t.halted = false) := ⟨⟨_, rfl, rfl, rfl⟩, ⟨_, rfl, rfl⟩⟩

/-- `VF` written as a flag, and as the destination. -/
theorem witness_FlagRegisterWriters :
    (∃ s t, exec (.addReg 0 1) s = .next t ∧ t.getV VF ≠ s.getV VF) ∧
    (∃ s t, exec (.ldByte VF 0xAA) s = .next t ∧ t.getV VF ≠ s.getV VF) :=
  ⟨⟨startWith [(0, 0xFF), (1, 0x01)] 0 [], _, rfl, by decide⟩, ⟨State.reset, _, rfl, by decide⟩⟩

theorem witness_CallPushesReturnAddress : ({ State.reset with sp := 15 } : State).sp.val < 16 := by decide
theorem witness_CallOnFullStackHalts : ({ State.reset with sp := 16 } : State).sp.val = 16 := by decide
theorem witness_ReturnPopsLastAddress :
    ({ State.reset with sp := 1 } : State).sp.val = (0 : Fin 16).val + 1 ∧
    ({ State.reset with sp := 16 } : State).sp.val = (15 : Fin 16).val + 1 := by decide
theorem witness_ReturnOnEmptyStackHalts : State.reset.sp.val = 0 := by decide

theorem witness_SkipTestsKey : (10 : Key).val = ((State.reset.setV 1 0x1A).getV 1).toNat % 16 := by decide

theorem witness_LoadFromDelayTimer : (withWord 0xF207 (State.reset.setDT 3)).WillExecute (.ldVxDT 2) :=
  willExecute_of 0xF207 rfl rfl (by decide) (by decide)
theorem witness_LoadToDelayTimer : (withWord 0xF015 (State.reset.setV 0 3)).WillExecute (.ldDTVx 0) :=
  willExecute_of 0xF015 rfl rfl (by decide) (by decide)
theorem witness_LoadToSoundTimer : (withWord 0xF318 (State.reset.setV 3 2)).WillExecute (.ldSTVx 3) :=
  willExecute_of 0xF318 rfl rfl (by decide) (by decide)
theorem witness_WaitForKeySetsLatch :
    (withWord 0xF40A { State.reset with keyInput := [[⟨3, true⟩]] }).WillExecute (.ldVxK 4) :=
  willExecute_of 0xF40A rfl rfl (by decide) (by decide)

theorem witness_StoreDecimalDigits :
    (State.reset.setI 0xFFD).mem.wf = true ∧ (State.reset.setI 0xFFD).i.toNat + 2 ≤ 0xFFF ∧ (State.reset.setI 0xFFD).dataAddr = 0xFFD := by
  decide
theorem witness_StoreRegisterBlock :
    (State.reset.setI 0xFF0).mem.wf = true ∧ (State.reset.setI 0xFF0).i.toNat + (15 : Reg).val ≤ 0xFFF ∧
    (State.reset.setI 0xFF0).dataAddr = 0xFF0 := by decide
theorem witness_LoadRegisterBlock : (State.reset.setI 0xFF0).i.toNat + (15 : Reg).val ≤ 0xFFF := by decide

/-- Both sides of the carry at its boundary, with a destination other than `VF`. -/
theorem witness_AddRegisterSetsCarry :
    (0 : Reg) ≠ VF ∧ (0xFF : Byte).toNat + (0x01 : Byte).toNat > 255 ∧ ¬ (0xFF : Byte).toNat + (0x00 : Byte).toNat > 255 := by decide
theorem witness_SubtractSetsNoBorrow :
    (0 : Reg) ≠ VF ∧ (0x05 : Byte).toNat ≥ (0x05 : Byte).toNat ∧ ¬ (0x04 : Byte).toNat ≥ (0x05 : Byte).toNat := by decide
theorem witness_ShiftsMoveOneBitInPlace :
    (0 : Reg) ≠ VF ∧ (0x01 : Byte).toNat % 2 = 1 ∧ ¬ (0x02 : Byte).toNat % 2 = 1 ∧ (0x80 : Byte).toNat ≥ 128 ∧
    ¬ (0x7F : Byte).toNat ≥ 128 := by decide

/-- No rows, a row at the last address, a covered pixel that is set, and no covered pixel. -/
theorem witness_DrawTogglesSpritePixels :
    ((0 : Fin 16).val = 0) ∧ ((State.reset.setI 0xFFF).i.toNat + (1 : Fin 16).val - 1 ≤ 0xFFF) ∧
    (∃ s px py, SpriteCovers 0 1 1 s px py ∧ pixelAt s px py = true) ∧
    (¬ ∃ px py, SpriteCovers 0 1 0 State.reset px py ∧ pixelAt State.reset px py = true) :=
  ⟨rfl, by decide,
    ⟨(startWith [] 0x300 [0x80]).setFB (FrameBuffer.clear.toggle (0, 0)), 0, 0,
      ⟨0, 0, by decide, by decide, by decide, by decide, by decide⟩, by decide⟩,
    fun ⟨_, _, ⟨r, _, hr, _⟩, _⟩ => Nat.not_lt_zero r hr⟩

theorem witness_DrawTwiceRestoresPixels :
    (1 : Reg) ≠ VF ∧ (2 : Reg) ≠ VF ∧ (State.reset.setI 0xFFF).i.toNat + (1 : Fin 16).val - 1 ≤ 0xFFF ∧
    ∀ px py, pixelAt (State.reset.setI 0xFFF) px py = false :=
  ⟨by decide, by decide, by decide, by decide⟩

end Sys2Proof.Machine
end

section
/-! SUPPORT. Runs of a halted core (spec/40_cycle.md R103). -/

namespace Sys2Proof.Machine

/-! ### Frames compose -/

@[refl] theorem SameBut.refl (ps : List Part) (s : State) : SameBut ps s s := by
  intro p _
  cases p <;> simp [Part.Same]

theorem Part.Same.trans {p : Part} {s t u : State} (hst : p.Same s t) (htu : p.Same t u) : p.Same s u := by
  cases p
  case registers => exact fun r => (htu r).trans (hst r)
  case memory => exact fun a => (htu a).trans (hst a)
  all_goals exact Eq.trans htu hst

theorem SameBut.trans {ps : List Part} {s t u : State} (hst : SameBut ps s t) (htu : SameBut ps t u) : SameBut ps s u :=
  fun p hp => (hst p hp).trans (htu p hp)

/-! ### What the halted core's steps do -/

/-- Taking a batch of events and emptying the outputs touches the model's port fields alone. -/
theorem sameBut_beginCycle (s : State) : SameBut [.hostEvents, .commands] s s.beginCycle := by
  intro p hp
  cases p <;> simp_all [Part.Same]

/-- A halted core only takes and drops the batches delivered to it, for it is still halted at each next step (log entry 2). -/
theorem run_halted (n : Nat) {s : State} (h : s.halted = true) :
    Host.Core.run Sys2Proof.core n s = .next (State.beginCycle^[n] s) := by
  induction n generalizing s with
  | zero => exact run_zero s
  | succ n ih => rw [run_succ (step_halted h), ih (s := s.beginCycle) h, Function.iterate_succ_apply]

theorem sameBut_iterate_beginCycle (n : Nat) (s : State) :
    SameBut [.hostEvents, .commands] s (State.beginCycle^[n] s) := by
  induction n with
  | zero => exact .refl _ s
  | succ n ih => rw [Function.iterate_succ_apply']; exact ih.trans (sameBut_beginCycle _)

theorem out_iterate_beginCycle {n : Nat} (hn : 0 < n) (s : State) : (State.beginCycle^[n] s).out = [] := by
  obtain ⟨m, rfl⟩ := Nat.exists_eq_add_one.mpr hn
  rw [Function.iterate_succ_apply', State.beginCycle_out]

@[simp] theorem State.resetEvent_halted (s : State) : s.resetEvent.halted = false := rfl

/-- Settles O18: a halted core's run of `n` steps is `n` times `State.beginCycle`, by induction on `n`; `resetEvent` clears the latch. -/
theorem haltedCoreStaysHalted : Obligations.HaltedCoreStaysHalted := by
  intro n s h
  exact ⟨⟨_, run_halted n h, sameBut_iterate_beginCycle n s, fun hn => out_iterate_beginCycle hn s⟩, s.resetEvent_halted⟩

end Sys2Proof.Machine
end

section
/-! SUPPORT. Jumps: the frame of a written program counter (spec/41_jump_call_return.md R110). -/

namespace Sys2Proof.Machine

/-! ### Writes of the program counter -/

theorem sameBut_setPC (a : Word) (s : State) : SameBut [.counter] s (s.setPC a) := by
  intro p hp
  cases p <;> simp_all [Part.Same]

theorem sameBut_advancePC (s : State) : SameBut [.counter] s s.advancePC := sameBut_setPC (s.pc + 2) s

/-- A jump overwrites the fetch's advance, so the counter is still the only part it changes. -/
theorem sameBut_setPC_advancePC (a : Word) (s : State) : SameBut [.counter] s (s.advancePC.setPC a) :=
  (sameBut_advancePC s).trans (sameBut_setPC a _)

/-! ### JP addr -/

theorem exec_jpAddr (nnn : Addr) (s : State) : exec (.jpAddr nnn) s = .next (s.advancePC.setPC (addrWord nnn)) := rfl

/-- Settles O32: the next state is the advanced one with `PC` set to the zero-extended address (`addrWord_toNat`). -/
theorem jumpSetsProgramCounter : Obligations.JumpSetsProgramCounter := by
  intro nnn s
  exact ⟨_, exec_jpAddr nnn s, addrWord_toNat nnn, sameBut_setPC_advancePC _ s⟩

end Sys2Proof.Machine
end

section
/-! SUPPORT. Skips: what every conditional skip does, and the comparisons of `SE` and `SNE` (spec/42_skip.md R120 to R124). -/

namespace Sys2Proof.Machine

/-! ### The skip itself -/

theorem sameBut_skipIf (c : Bool) (s : State) : SameBut [.counter] s (s.skipIf c) :=
  sameBut_setPC (if c then s.pc + 2 else s.pc) s

/-- An instruction that answers with a skip on a test of `p` moves `PC` by 4 where `p` holds and by 2 where it fails, and changes
no other part (R124). -/
theorem exec_skip_spec {i : Instr} {s : State} {c : Bool} {p : Prop} [Decidable p]
    (hexec : exec i s = .next (s.advancePC.skipIf c)) (htest : c = true ↔ p) :
    ∃ t, exec i s = .next t ∧ t.pc = (if p then s.pc + 4 else s.pc + 2) ∧ SameBut [.counter] s t := by
  have hpc : (s.advancePC.skipIf c).pc = if p then s.pc + 4 else s.pc + 2 := by
    simp only [s.pc_skipIf_advancePC c, htest]
  exact ⟨_, hexec, hpc, (sameBut_advancePC s).trans (sameBut_skipIf c _)⟩

/-! ### SE and SNE -/

theorem exec_seByte (x : Reg) (kk : Byte) (s : State) :
    exec (.seByte x kk) s = .next (s.advancePC.skipIf (s.getV x == kk)) := rfl

theorem exec_sneByte (x : Reg) (kk : Byte) (s : State) :
    exec (.sneByte x kk) s = .next (s.advancePC.skipIf (s.getV x != kk)) := rfl

theorem exec_seReg (x y : Reg) (s : State) :
    exec (.seReg x y) s = .next (s.advancePC.skipIf (s.getV x == s.getV y)) := rfl

theorem exec_sneReg (x y : Reg) (s : State) :
    exec (.sneReg x y) s = .next (s.advancePC.skipIf (s.getV x != s.getV y)) := rfl

/-- Settles O38: both are skips (`exec_skip_spec`), on the equality and on the inequality of `V[x]` and the immediate. -/
theorem skipComparesWithImmediate : Obligations.SkipComparesWithImmediate := by
  intro x kk s
  exact ⟨exec_skip_spec (exec_seByte x kk s) beq_iff_eq, exec_skip_spec (exec_sneByte x kk s) bne_iff_ne⟩

/-- Settles O39: both are skips (`exec_skip_spec`), on the equality and on the inequality of `V[x]` and `V[y]`. -/
theorem skipComparesRegisters : Obligations.SkipComparesRegisters := by
  intro x y s
  exact ⟨exec_skip_spec (exec_seReg x y s) beq_iff_eq, exec_skip_spec (exec_sneReg x y s) bne_iff_ne⟩

end Sys2Proof.Machine
end

section
/-! SUPPORT. Loads to a general register: the frame of a register write, and the cycle that executes a given instruction
(spec/43_load.md R130, R131, R133; spec/40_cycle.md R95). -/

namespace Sys2Proof.Machine

/-! ### Writes of a general register -/

theorem SameBut.mono {ps qs : List Part} {s t : State} (hsub : ps ⊆ qs) (h : SameBut ps s t) : SameBut qs s t :=
  fun p hp => h p fun hmem => hp (hsub hmem)

theorem sameBut_setV (x : Reg) (b : Byte) (s : State) : SameBut [.registers] s (s.setV x b) := by
  intro p hp
  cases p <;> simp_all [Part.Same]

theorem sameRegistersBut_setV (x : Reg) (b : Byte) (s : State) : SameRegistersBut [x] s (s.setV x b) := by
  intro r hr
  rw [State.getV_setV, if_neg (List.ne_of_not_mem_cons hr)]

/-- A byte written to `V[x]` after the fetch's advance is the only change beside that advance. -/
theorem writesOnly_setV_advancePC (x : Reg) (b : Byte) (s : State) : WritesOnly x b s (s.advancePC.setV x b) := by
  have hread : (s.advancePC.setV x b).getV x = b := by simp
  have hadvance : SameBut [.registers, .counter] s s.advancePC := (sameBut_advancePC s).mono (by simp)
  have hwrite : SameBut [.registers, .counter] s.advancePC (s.advancePC.setV x b) := (sameBut_setV x b _).mono (by simp)
  exact ⟨hread, sameRegistersBut_setV x b s.advancePC, rfl, hadvance.trans hwrite⟩

/-! ### The cycle that executes a given instruction -/

theorem fetchDecodeExecute_of_decode {s : State} {w : Word} {i : Instr} (hfetch : fetchWord s = some w)
    (hdecode : decode w = .ok i) : fetchDecodeExecute s = exec i s := by
  simp only [fetchDecodeExecute, hfetch, executePair_decodePair, hdecode]

/-- The cycle executes the decoded instruction on the state after step 1, then finishes unless a fault was taken. -/
theorem step_of_willExecute {s : State} {i : Instr} (h : s.WillExecute i) :
    step s = afterExecute (exec i s.afterEvents) := by
  obtain ⟨hrun, hwait, w, hfetch, hdecode⟩ := h
  rw [step_active hrun hwait, fetchDecodeExecute_of_decode ((fetchWord_afterEvents s).trans hfetch) hdecode]

theorem afterExecute_of_not_halted {u : State} (h : u.halted = false) : afterExecute (.next u) = .next (finishCycle u) := by
  simp [afterExecute, h]

/-! ### LD Vx, byte, LD Vx, Vy and LD Vx, DT -/

theorem exec_ldByte (x : Reg) (kk : Byte) (s : State) : exec (.ldByte x kk) s = .next (s.advancePC.setV x kk) := rfl

theorem exec_ldReg (x y : Reg) (s : State) : exec (.ldReg x y) s = .next (s.advancePC.setV x (s.getV y)) := rfl

theorem exec_ldVxDT (x : Reg) (s : State) : exec (.ldVxDT x) s = .next (s.advancePC.setV x s.dt) := rfl

/-- Settles O41: both answer the advanced state with one register written (`writesOnly_setV_advancePC`), the immediate or `V[y]`. -/
theorem loadRegister : Obligations.LoadRegister := by
  intro x y kk s
  exact ⟨⟨_, exec_ldByte x kk s, writesOnly_setV_advancePC x kk s⟩,
    ⟨_, exec_ldReg x y s, writesOnly_setV_advancePC x (s.getV y) s⟩⟩

/-- The cycle of `LD Vx, DT` finishes the state that holds the timer's old value in `V[x]`, so the tick comes after the read. -/
theorem step_ldVxDT {x : Reg} {s : State} (h : s.WillExecute (.ldVxDT x)) :
    step s = .next (finishCycle (s.afterEvents.advancePC.setV x s.dt)) := by
  have hrun : (s.afterEvents.advancePC.setV x s.dt).halted = false := by simpa using h.1
  rw [step_of_willExecute h, exec_ldVxDT, State.afterEvents_dt, afterExecute_of_not_halted hrun]

/-- Settles O43: step 2 writes `DT` as it was before the cycle to `V[x]` alone, and step 3 then ticks it (`step_ldVxDT`). -/
theorem loadFromDelayTimer : Obligations.LoadFromDelayTimer := by
  intro x s
  refine ⟨⟨_, exec_ldVxDT x s, writesOnly_setV_advancePC x s.dt s⟩, fun h => ⟨_, step_ldVxDT h, ?_, ?_⟩⟩
  · rw [getV_finishCycle, State.getV_setV, if_pos rfl]
  · rw [finishCycle_dt, tick_toNat, State.setV_dt, State.advancePC_dt, State.afterEvents_dt]

end Sys2Proof.Machine
end

section
/-! SUPPORT. Key skips: which key a register's value names, and the tests of `SKP` and `SKNP` (spec/47_keys.md R190 to R192). -/

namespace Sys2Proof.Machine

/-! ### The key a register names -/

theorem keyIndex_eq_of_val_eq {b : Byte} {k : Key} (hk : k.val = b.toNat % 16) : keyIndex b = k :=
  Fin.ext ((keyIndex_val b).trans hk.symm)

/-- The model's key test reads `KEY` at the key whose index is the low nibble (R192). -/
theorem State.keyDown_eq_of_val_eq {b : Byte} {k : Key} (s : State) (hk : k.val = b.toNat % 16) : s.keyDown b = s.key[k] :=
  congrArg (fun j : Key => s.key[j]) (keyIndex_eq_of_val_eq hk)

/-! ### SKP and SKNP -/

theorem exec_skp (x : Reg) (s : State) : exec (.skp x) s = .next (s.advancePC.skipIf (s.keyDown (s.getV x))) := rfl

theorem exec_sknp (x : Reg) (s : State) : exec (.sknp x) s = .next (s.advancePC.skipIf (!s.keyDown (s.getV x))) := rfl

/-- Settles O40: both are skips (`exec_skip_spec`), on the named key being pressed and on its not being pressed. -/
theorem skipTestsKey : Obligations.SkipTestsKey := by
  intro x k s hk
  have hkey : s.keyDown (s.getV x) = s.key[k] := s.keyDown_eq_of_val_eq hk
  have hpressed : s.keyDown (s.getV x) = true ↔ s.key[k] = true := by rw [hkey]
  have hreleased : (!s.keyDown (s.getV x)) = true ↔ ¬ s.key[k] = true := by simp [hkey]
  have hsknp := exec_skip_spec (exec_sknp x s) hreleased
  rw [ite_not] at hsknp
  exact ⟨exec_skip_spec (exec_skp x s) hpressed, hsknp⟩

end Sys2Proof.Machine
end

section
/-! SUPPORT. The load port: what the loaded block reads as and what a load leaves alone (spec/20_memory.md R57;
spec/70_reset_and_hazards.md R233, R235). -/

namespace Sys2Proof.Machine

/-! ### One load -/

theorem sameBut_loadBytes (base : Nat) (bs : List Byte) (s : State) : SameBut [.memory] s (s.loadBytes base bs) := by
  intro p hp
  cases p <;> simp_all [Part.Same, State.loadBytes]

theorem State.byteAt_loadBytes {s : State} {base j : Nat} {bs : List Byte} (hm : s.mem.wf = true)
    (hfit : base + bs.length ≤ 4096) (hj : j < bs.length) : (s.loadBytes base bs).mem.byteAt (base + j) = bs[j] := by
  have hin : base ≤ base + j ∧ base + j < base + bs.length := by omega
  rw [loadBytes, setMem_mem, Memory.byteAt_storeBlock _ hm (.inr hfit), if_pos hin, Nat.add_sub_cancel_left,
    List.getD_eq_getElem _ _ hj]

theorem sameMemoryOutside_loadBytes {s : State} {base : Nat} {bs : List Byte} (hm : s.mem.wf = true)
    (hfit : base + bs.length ≤ 4096) : SameMemoryOutside base bs.length s (s.loadBytes base bs) := by
  intro a ha
  rw [State.loadBytes, State.setMem_mem, Memory.byteAt_storeBlock a hm (.inr hfit), if_neg ha]

/-! ### Reset and load -/

/-- A boot that fits is reset followed by two loads, of the font and then of the image. -/
theorem State.boot_of_length_le (font : Vector Byte 80) {image : List Byte} (h : image.length ≤ 3584) :
    State.boot font image = some ((State.reset.loadBytes 0x050 font.toList).loadBytes 0x200 image) :=
  if_pos h

/-- Settles O9: boot is two loads (`State.boot_of_length_le`). The image reads back from the second; the font reads back from the
first, whose block ends below 0x200; a byte outside both blocks is the 0x00 of reset. -/
theorem loadRoundTrip : Obligations.LoadRoundTrip := by
  intro font image hlen
  have hfont : font.toList.length = 80 := Vector.length_toList
  have hfitFont : 0x050 + font.toList.length ≤ 4096 := by omega
  have hfitImage : 0x200 + image.length ≤ 4096 := by omega
  have hwf : (State.reset.loadBytes 0x050 font.toList).mem.wf = true := State.loadBytes_wf memReset_wf (.inr hfitFont)
  have houtImage := sameMemoryOutside_loadBytes hwf hfitImage
  refine ⟨_, State.boot_of_length_le font hlen, fun j hj => State.byteAt_loadBytes hwf hfitImage hj, fun j hj => ?_,
    fun a haImage haFont => ?_, (sameBut_loadBytes _ _ _).trans (sameBut_loadBytes _ _ _)⟩
  · rw [houtImage _ (by omega), State.byteAt_loadBytes memReset_wf hfitFont (hfont.symm ▸ hj), Vector.getElem_toList]
  · rw [houtImage a haImage, sameMemoryOutside_loadBytes memReset_wf hfitFont a (by omega)]
    exact Memory.byteAt_nil a

end Sys2Proof.Machine
end

section
/-! SUPPORT. The decoder against the encoder, both ways, and the words that are no instruction (spec/30_encoding.md R62 to R76). -/

namespace Sys2Proof

/-! ### Decoding an encoding -/

/-- The two exact matches lie in family 0, so no word of another family is one of them. -/
theorem ne_exactMatch_of_fieldFam_ne_zero {w : Word} (h : fieldFam w ≠ 0) : w ≠ 0x00E0 ∧ w ≠ 0x00EE := by
  constructor <;> rintro rfl <;> exact h rfl

theorem ne_exactMatch_of_isSys {nnn : Addr} (h : nnn.isSys = true) :
    formatAddr 0x0 nnn ≠ 0x00E0 ∧ formatAddr 0x0 nnn ≠ 0x00EE := by
  have hfield (a : Addr) (w : Word) (hw : formatAddr 0x0 a = w) : a = fieldNNN w := by rw [← hw, fieldNNN_formatAddr]
  have hsys : nnn ≠ 0x0E0 ∧ nnn ≠ 0x0EE := by simpa [Addr.isSys] using h
  exact ⟨fun hw => hsys.1 (hfield nnn _ hw), fun hw => hsys.2 (hfield nnn _ hw)⟩

/-- A well-formed instruction is an exact match, or its word is none, so that the family decides. -/
theorem encode_ne_exactMatch {i : Instr} (hwf : i.wellFormed = true) (hcls : i ≠ .cls) (hret : i ≠ .ret) :
    encode i ≠ 0x00E0 ∧ encode i ≠ 0x00EE := by
  cases i
  case sysAddr nnn => exact ne_exactMatch_of_isSys hwf
  case cls => exact absurd rfl hcls
  case ret => exact absurd rfl hret
  all_goals exact ne_exactMatch_of_fieldFam_ne_zero (by simp [encode])

/-- The decoder reads from an encoding the pair of the opcode map. -/
theorem decodePair_encode {i : Instr} (hwf : i.wellFormed = true) : decodePair (encode i) = i.pair := by
  by_cases hcls : i = .cls
  · subst hcls; rfl
  by_cases hret : i = .ret
  · subst hret; rfl
  obtain ⟨hE0, hEE⟩ := encode_ne_exactMatch hwf hcls hret
  rw [decodePair, if_neg hE0, if_neg hEE]
  cases i
  case cls => contradiction
  case ret => contradiction
  all_goals simp [encode, Instr.pair, decodeFamily8, decodeFamilyE, decodeFamilyF]

theorem decode_encode {i : Instr} (hwf : i.wellFormed = true) : decode (encode i) = .ok i := by
  rw [decode, decodePair_encode hwf, Instr.ofPair_pair]

/-- Settles O2: the fields of an encoding are the operands, so the decoder finds the instruction's pair (`decodePair_encode`). -/
theorem decodeOfEncode : Obligations.DecodeOfEncode := by
  intro i hwf
  refine ⟨decode_encode hwf, fun rest => ?_⟩
  rw [encodeBytes, decodeBytes_bytesOfWord, decode_encode hwf]
  rfl

/-! ### Encoding what a word decodes to -/

theorem formatAddr_of_fam {w : Word} {f : Nat} (hf : f < 16) (h : (fieldFam w).toNat = f) :
    formatAddr (BitVec.ofNat 4 f) (fieldNNN w) = w := by
  rw [← fieldFam_eq hf h, formatAddr_fields]

theorem formatXKK_of_fam {w : Word} {f : Nat} (hf : f < 16) (h : (fieldFam w).toNat = f) :
    formatXKK (BitVec.ofNat 4 f) (fieldX w) (fieldKK w) = w := by
  rw [← fieldFam_eq hf h, formatXKK_fields]

theorem formatXKK_of_fam_kk {w : Word} {f k : Nat} (hf : f < 16) (h : (fieldFam w).toNat = f) (hk : k < 256)
    (h' : (fieldKK w).toNat = k) : formatXKK (BitVec.ofNat 4 f) (fieldX w) (BitVec.ofNat 8 k) = w := by
  rw [← fieldKK_eq hk h', formatXKK_of_fam hf h]

theorem formatXYN_of_fam {w : Word} {f : Nat} (hf : f < 16) (h : (fieldFam w).toNat = f) :
    formatXYN (BitVec.ofNat 4 f) (fieldX w) (fieldY w) (fieldN w) = w := by
  rw [← fieldFam_eq hf h, formatXYN_fields]

theorem formatXYN_of_fam_n {w : Word} {f n : Nat} (hf : f < 16) (h : (fieldFam w).toNat = f) (hn : n < 16)
    (h' : (fieldN w).val = n) : formatXYN (BitVec.ofNat 4 f) (fieldX w) (fieldY w) ⟨n, hn⟩ = w := by
  rw [← fieldN_eq hn h', formatXYN_of_fam hf h]

theorem encode_of_ofPair_decodeFamily8 {w : Word} {i : Instr} (hf : (fieldFam w).toNat = 0x8)
    (h : Instr.ofPair (decodeFamily8 w).1 (decodeFamily8 w).2 = .ok i) : i.wellFormed = true ∧ encode i = w := by
  unfold decodeFamily8 at h
  split at h <;> cases h
  all_goals exact ⟨rfl, formatXYN_of_fam_n (by decide) hf (by decide) ‹_›⟩

theorem encode_of_ofPair_decodeFamilyE {w : Word} {i : Instr} (hf : (fieldFam w).toNat = 0xE)
    (h : Instr.ofPair (decodeFamilyE w).1 (decodeFamilyE w).2 = .ok i) : i.wellFormed = true ∧ encode i = w := by
  unfold decodeFamilyE at h
  split at h <;> cases h
  all_goals exact ⟨rfl, formatXKK_of_fam_kk (by decide) hf (by decide) ‹_›⟩

theorem encode_of_ofPair_decodeFamilyF {w : Word} {i : Instr} (hf : (fieldFam w).toNat = 0xF)
    (h : Instr.ofPair (decodeFamilyF w).1 (decodeFamilyF w).2 = .ok i) : i.wellFormed = true ∧ encode i = w := by
  unfold decodeFamilyF at h
  split at h <;> cases h
  all_goals exact ⟨rfl, formatXKK_of_fam_kk (by decide) hf (by decide) ‹_›⟩

/-- A word of family 0 that is no exact match has an address field that `SYS` takes. -/
theorem isSys_fieldNNN {w : Word} (hf : (fieldFam w).toNat = 0x0) (hE0 : w ≠ 0x00E0) (hEE : w ≠ 0x00EE) :
    (fieldNNN w).isSys = true := by
  have hw : formatAddr 0x0 (fieldNNN w) = w := formatAddr_of_fam (by decide) hf
  have hfield (a : Addr) (ha : fieldNNN w = a) : w = formatAddr 0x0 a := by rw [← ha, hw]
  have hsys : fieldNNN w ≠ 0x0E0 ∧ fieldNNN w ≠ 0x0EE := ⟨fun h => hE0 (hfield _ h), fun h => hEE (hfield _ h)⟩
  simpa [Addr.isSys] using hsys

/-- Settles O3: along the decoder's branches, each arm's fields put together in its format are the word again. -/
theorem encodeOfDecode : Obligations.EncodeOfDecode := by
  intro w i h
  unfold decode decodePair at h
  split at h
  · next hw => cases h; exact ⟨rfl, hw.symm⟩
  split at h
  · next hw => cases h; exact ⟨rfl, hw.symm⟩
  split at h
  case h_1 hE0 hEE _ hf => cases h; exact ⟨isSys_fieldNNN hf hE0 hEE, formatAddr_of_fam (by decide) hf⟩
  case h_6 hf =>
    split at h <;> cases h
    next hn => exact ⟨rfl, formatXYN_of_fam_n (by decide) hf (by decide) (congrArg Fin.val hn)⟩
  case h_9 hf => exact encode_of_ofPair_decodeFamily8 hf h
  case h_10 hf =>
    split at h <;> cases h
    next hn => exact ⟨rfl, formatXYN_of_fam_n (by decide) hf (by decide) (congrArg Fin.val hn)⟩
  case h_14 hf => cases h; exact ⟨rfl, formatXYN_of_fam (by decide) hf⟩
  case h_15 hf => exact encode_of_ofPair_decodeFamilyE hf h
  case h_16 =>
    simp only [imp_false] at *
    exact encode_of_ofPair_decodeFamilyF (by omega) h
  case h_2 | h_3 | h_11 | h_12 => cases h; exact ⟨rfl, formatAddr_of_fam (by decide) ‹_›⟩
  all_goals cases h; exact ⟨rfl, formatXKK_of_fam (by decide) ‹_›⟩

/-! ### The words that are no instruction -/

/-- The words of R73, which are no instruction. -/
def IsListedUndefined (w : Word) : Prop :=
  (w.toNat / 4096 = 0x5 ∧ w.toNat % 16 ≠ 0) ∨
  (w.toNat / 4096 = 0x8 ∧ w.toNat % 16 ∈ [0x8, 0x9, 0xA, 0xB, 0xC, 0xD, 0xF]) ∨
  (w.toNat / 4096 = 0x9 ∧ w.toNat % 16 ≠ 0) ∨
  (w.toNat / 4096 = 0xE ∧ w.toNat % 256 ∉ [0x9E, 0xA1]) ∨
  (w.toNat / 4096 = 0xF ∧ w.toNat % 256 ∉ [0x07, 0x0A, 0x15, 0x18, 0x1E, 0x29, 0x33, 0x55, 0x65])

theorem not_isListedUndefined_encode (i : Instr) : ¬ IsListedUndefined (encode i) := by
  unfold IsListedUndefined
  cases i
  case cls => decide
  case ret => decide
  all_goals
    simp only [encode, formatAddr_toNat, formatXKK_toNat, formatXYN_toNat, List.mem_cons, List.not_mem_nil, or_false,
      BitVec.ofNat_eq_ofNat, BitVec.toNat_ofNat, Fin.coe_ofNat_eq_mod]
    omega

theorem decodeFamily8_error {w : Word} {r : DecodeReject} (hf : (fieldFam w).toNat = 0x8)
    (h : Instr.ofPair (decodeFamily8 w).1 (decodeFamily8 w).2 = .error r) : r = .undefined ∧ IsListedUndefined w := by
  rw [fieldFam_toNat] at hf
  unfold decodeFamily8 at h
  split at h <;> cases h
  refine ⟨rfl, .inr (.inl ⟨hf, ?_⟩)⟩
  simp only [fieldN_val, imp_false, List.mem_cons, List.not_mem_nil, or_false] at *
  omega

theorem decodeFamilyE_error {w : Word} {r : DecodeReject} (hf : (fieldFam w).toNat = 0xE)
    (h : Instr.ofPair (decodeFamilyE w).1 (decodeFamilyE w).2 = .error r) : r = .undefined ∧ IsListedUndefined w := by
  rw [fieldFam_toNat] at hf
  unfold decodeFamilyE at h
  split at h <;> cases h
  refine ⟨rfl, .inr (.inr (.inr (.inl ⟨hf, ?_⟩)))⟩
  simp only [fieldKK_toNat, imp_false, List.mem_cons, List.not_mem_nil, or_false] at *
  omega

theorem decodeFamilyF_error {w : Word} {r : DecodeReject} (hf : (fieldFam w).toNat = 0xF)
    (h : Instr.ofPair (decodeFamilyF w).1 (decodeFamilyF w).2 = .error r) : r = .undefined ∧ IsListedUndefined w := by
  rw [fieldFam_toNat] at hf
  unfold decodeFamilyF at h
  split at h <;> cases h
  refine ⟨rfl, .inr (.inr (.inr (.inr ⟨hf, ?_⟩)))⟩
  simp only [fieldKK_toNat, imp_false, List.mem_cons, List.not_mem_nil, or_false] at *
  omega

/-- A word that does not decode is `UNDEFINED` and listed: the families 5, 8, 9, 0xE and 0xF alone reject. -/
theorem decode_error {w : Word} {r : DecodeReject} (h : decode w = .error r) : r = .undefined ∧ IsListedUndefined w := by
  have hnibble (hn : ¬ fieldN w = 0) : w.toNat % 16 ≠ 0 := fun h0 => hn (Fin.ext ((fieldN_val w).trans h0))
  unfold decode decodePair at h
  split at h
  · cases h
  split at h
  · cases h
  split at h
  case h_6 hf =>
    split at h <;> cases h
    next hn => exact ⟨rfl, .inl ⟨(fieldFam_toNat w).symm.trans hf, hnibble hn⟩⟩
  case h_9 hf => exact decodeFamily8_error hf h
  case h_10 hf =>
    split at h <;> cases h
    next hn => exact ⟨rfl, .inr (.inr (.inl ⟨(fieldFam_toNat w).symm.trans hf, hnibble hn⟩))⟩
  case h_15 hf => exact decodeFamilyE_error hf h
  case h_16 =>
    simp only [imp_false] at *
    exact decodeFamilyF_error (by omega) h
  all_goals cases h

theorem decode_error_iff (w : Word) : (∃ r, decode w = .error r) ↔ IsListedUndefined w := by
  constructor
  · rintro ⟨r, h⟩
    exact (decode_error h).2
  · intro hlisted
    cases h : decode w with
    | error r => exact ⟨r, rfl⟩
    | ok i =>
      have hw : encode i = w := (encodeOfDecode w i h).2
      exact absurd (hw ▸ hlisted) (not_isListedUndefined_encode i)

/-- Settles O4: a rejected word is listed (`decode_error`), and a listed word is no encoding, so that by O3 it decodes to none. -/
theorem undefinedWordsAreThoseListed : Obligations.UndefinedWordsAreThoseListed :=
  fun w => ⟨decode_error_iff w, fun _ h => (decode_error h).1⟩

/-- Settles O1: twenty-two closed decodings, evaluated. -/
theorem decodeOfSampleWords : Obligations.DecodeOfSampleWords := by
  unfold Obligations.DecodeOfSampleWords
  decide

end Sys2Proof
end

section
/-! SUPPORT. Memory accesses, the fetch and its fault, the values at the start (spec/20_memory.md R45 to R48; spec/40_cycle.md
R93; spec/60_exceptions.md R205; spec/70_reset_and_hazards.md R230, R233). -/

namespace Sys2Proof.Machine

/-! ### Reads and writes of one byte -/

theorem memRead_of_le (m : Memory) {a : Nat} (h : a ≤ 0xFFF) : memRead m a = some (m.byteAt a) := if_pos h

theorem memRead_of_gt (m : Memory) {a : Nat} (h : 0xFFF < a) : memRead m a = none := if_neg (by omega)

theorem memWrite_of_le (m : Memory) {a : Nat} (b : Byte) (h : a ≤ 0xFFF) : memWrite m a b = some (m.store a b) := if_pos h

theorem memWrite_of_gt (m : Memory) {a : Nat} (b : Byte) (h : 0xFFF < a) : memWrite m a b = none := if_neg (by omega)

theorem memRead_congr {m m' : Memory} {a : Nat} (h : m'.byteAt a = m.byteAt a) : memRead m' a = memRead m a := by
  simp only [memRead, h]

/-- Settles O5: a write in range is a store, which keeps the form and changes one byte (`Memory.byteAt_store`). -/
theorem memReadAfterMemWrite : Obligations.MemReadAfterMemWrite := by
  refine ⟨fun m a b hm ha => ?_, fun m a b ha => ⟨memRead_of_gt m ha, memWrite_of_gt m b ha⟩⟩
  have hread (c : Nat) : (m.store a b).byteAt c = if c = a then b else m.byteAt c := Memory.byteAt_store b c hm
  refine ⟨m.store a b, memWrite_of_le m b ha, Memory.wf_store hm (by omega) b, ?_, fun c hc => memRead_congr ?_⟩
  · rw [memRead_of_le _ ha, hread, if_pos rfl]
  · rw [hread, if_neg hc]

/-- Settles O6: the extensionality of canonical lists from address 0 on (`Memory.ext_of_risingFrom`). -/
theorem memoriesThatReadAlikeAreEqual : Obligations.MemoriesThatReadAlikeAreEqual :=
  fun _ _ hm hm' hread => Memory.ext_of_risingFrom hm hm' hread

/-! ### The state a fault leaves -/

/-- The state that taking a fault of the kind, with the word beside it, answers (R205). -/
def State.faulted (k : FaultKind) (w : Word) (s : State) : State :=
  { s with halted := true, fault := ⟨k, w, s.pc⟩ }

theorem takeFault_eq_faulted (k : FaultKind) (w : Word) (s : State) : takeFault k w s = .next (s.faulted k w) := rfl

@[simp] theorem State.faulted_halted (k : FaultKind) (w : Word) (s : State) : (s.faulted k w).halted = true := rfl
@[simp] theorem State.faulted_fault (k : FaultKind) (w : Word) (s : State) : (s.faulted k w).fault = ⟨k, w, s.pc⟩ := rfl
@[simp] theorem State.faulted_out (k : FaultKind) (w : Word) (s : State) : (s.faulted k w).out = s.out := rfl

theorem sameBut_faulted (k : FaultKind) (w : Word) (s : State) : SameBut [.halted, .faultRecord] s (s.faulted k w) := by
  intro p hp
  cases p <;> simp_all [Part.Same, State.faulted, State.getV]

/-! ### The fetch -/

theorem extractLsb'_wordOfBytes_hi (hi lo : Byte) : (wordOfBytes hi lo).extractLsb' 8 8 = hi := by
  apply BitVec.eq_of_toNat_eq
  rw [extractLsb'_toNat_eq, wordOfBytes_toNat]
  omega

theorem extractLsb'_wordOfBytes_lo (hi lo : Byte) : (wordOfBytes hi lo).extractLsb' 0 8 = lo := by
  apply BitVec.eq_of_toNat_eq
  rw [extractLsb'_toNat_eq, wordOfBytes_toNat]
  omega

theorem fetchWord_of_lt {s : State} (h : s.pc.toNat < 0xFFF) :
    fetchWord s = some (wordOfBytes (s.mem.byteAt s.pc.toNat) (s.mem.byteAt (s.pc.toNat + 1))) := by
  rw [fetchWord_eq, if_pos h]

theorem fetchWord_eq_none_iff (s : State) : fetchWord s = none ↔ 0xFFF ≤ s.pc.toNat := by
  rw [fetchWord_eq]
  split <;> simp <;> omega

theorem pc_lt_of_fetchWord {s : State} {w : Word} (h : fetchWord s = some w) : s.pc.toNat < 0xFFF := by
  by_contra hpc
  simp [(fetchWord_eq_none_iff s).mpr (by omega)] at h

theorem fetchDecodeExecute_of_no_fetch {s : State} (h : fetchWord s = none) :
    fetchDecodeExecute s = .next (s.faulted .memoryRange 0x0000) := by
  simp only [fetchDecodeExecute, h, takeFault_eq_faulted]

theorem fetchDecodeExecute_of_undefined {s : State} {w : Word} {r : DecodeReject} (hfetch : fetchWord s = some w)
    (hdecode : decode w = .error r) : fetchDecodeExecute s = .next (s.faulted .decodeFailure w) := by
  simp only [fetchDecodeExecute, hfetch, executePair_decodePair, hdecode, takeFault_eq_faulted]

/-- Settles O7: in range the fetch assembles the two bytes, out of it the fault is taken on the state as it is. -/
theorem fetchAssemblesTwoBytes : Obligations.FetchAssemblesTwoBytes := by
  intro s
  refine ⟨fun h => ⟨_, fetchWord_of_lt h, extractLsb'_wordOfBytes_hi _ _, extractLsb'_wordOfBytes_lo _ _⟩, fun h => ?_⟩
  have hnone : fetchWord s = none := (fetchWord_eq_none_iff s).mpr h
  exact ⟨hnone, _, fetchDecodeExecute_of_no_fetch hnone, rfl, rfl, sameBut_faulted _ _ s⟩

/-! ### Reset and load -/

/-- Settles O8: the values `State.reset` is written with, which the event `reset` gives back from every state. -/
theorem resetValues : Obligations.ResetValues := by
  intro s t ht
  have hfb : t.fb = FrameBuffer.clear := by rcases ht with rfl | rfl <;> rfl
  have hcells (k : Fin 2048) : t.fb.at k = false := by rw [hfb]; exact FrameBuffer.cell_clear _
  have hv : t.v = Vector.replicate 16 0 := by rcases ht with rfl | rfl <;> rfl
  have hstack : t.stack = Vector.replicate 16 0 := by rcases ht with rfl | rfl <;> rfl
  have hkey : t.key = Vector.replicate 16 false := by rcases ht with rfl | rfl <;> rfl
  have hmem : t.mem = [] := by rcases ht with rfl | rfl <;> rfl
  refine ⟨fun r => by simp [State.getV, hv], ?_, ?_, fun j => by simp [hstack], ?_, ?_, ?_, fun a => by simp [hmem], hcells,
    fun k => by simp [hkey], ?_, ?_, ?_⟩
  all_goals rcases ht with rfl | rfl <;> rfl

/-- Settles O10: the length is the one check of `State.load`. -/
theorem loadRefusesLongImage : Obligations.LoadRefusesLongImage :=
  fun _ _ h => if_neg (Nat.not_le_of_lt h)

theorem reset_inv : State.reset.Inv := ⟨rfl, by decide, by decide, by decide⟩

theorem State.loadBytes_inv {s : State} {base : Nat} {bs : List Byte} (h : s.Inv) (hfit : base + bs.length ≤ 4096) :
    (s.loadBytes base bs).Inv :=
  ⟨State.loadBytes_wf h.1 (.inr hfit), h.2⟩

/-- Settles O11: reset meets the invariant, and each of the two loads of a boot keeps it. -/
theorem invariantAtStart : Obligations.InvariantAtStart := by
  refine ⟨reset_inv, fun font image s hboot => ?_⟩
  have hlen : image.length ≤ 3584 := by
    by_contra h
    rw [loadRefusesLongImage font image (by omega)] at hboot
    cases hboot
  rw [State.boot_of_length_le font hlen] at hboot
  cases hboot
  have hfont : (State.reset.loadBytes 0x050 font.toList).Inv := State.loadBytes_inv reset_inv (by simp)
  exact State.loadBytes_inv hfont (by omega)

end Sys2Proof.Machine
end

section
/-! SUPPORT. What an instruction can do: it takes the fault of the table, or completes within the parts its rules name
(spec/60_exceptions.md R200, R205; spec/10_state.md R10 to R24; spec/40_cycle.md R94). -/

namespace Sys2Proof.Machine

/-! ### The frame of each update -/

theorem sameBut_setI (a : Word) (s : State) : SameBut [.index] s (s.setI a) := by
  intro p hp
  cases p <;> simp_all [Part.Same]

theorem sameBut_setDT (b : Byte) (s : State) : SameBut [.delay] s (s.setDT b) := by
  intro p hp
  cases p <;> simp_all [Part.Same]

theorem sameBut_setST (b : Byte) (s : State) : SameBut [.sound] s (s.setST b) := by
  intro p hp
  cases p <;> simp_all [Part.Same]

theorem sameBut_waitForKey (x : Reg) (s : State) : SameBut [.keyWait] s (s.waitForKey x) := by
  intro p hp
  cases p <;> simp_all [Part.Same]

theorem sameBut_countDraw (s : State) : SameBut [.draws] s s.countDraw := by
  intro p hp
  cases p <;> simp_all [Part.Same]

theorem sameBut_setFB (fb : FrameBuffer) (s : State) : SameBut [.pixels] s (s.setFB fb) := by
  intro p hp
  cases p <;> simp_all [Part.Same]

theorem sameBut_emit (c : Command) (s : State) : SameBut [.commands] s (s.emit c) := by
  intro p hp
  cases p <;> simp_all [Part.Same]

theorem sameBut_setRegs (bs : List Byte) (s : State) : SameBut [.registers] s (s.setRegs bs) := by
  intro p hp
  cases p <;> simp_all [Part.Same]

theorem sameBut_setFlag (c : Bool) (s : State) : SameBut [.registers] s (s.setFlag c) := sameBut_setV VF (b2i c) s

theorem sameBut_setResult (x : Reg) (b : Byte) (c : Bool) (s : State) : SameBut [.registers] s (s.setResult x b c) :=
  (sameBut_setV x b s).trans (sameBut_setFlag c _)

theorem SameBut.append {ps qs : List Part} {s t u : State} (hst : SameBut ps s t) (htu : SameBut qs t u) :
    SameBut (ps ++ qs) s u :=
  (hst.mono (List.subset_append_left ps qs)).trans (htu.mono (List.subset_append_right ps qs))

/-- The fetch's advance before an update adds the program counter to the parts the update changes. -/
theorem SameBut.after_advancePC {ps : List Part} {s t : State} (h : SameBut ps s.advancePC t) :
    SameBut (.counter :: ps) s t := (sameBut_advancePC s).append h

/-! ### The instructions that can fault, where they complete -/

theorem faultMet_callAddr_eq_none {nnn : Addr} {s : State} : faultMet (.callAddr nnn) s = none ↔ s.sp.val < 16 := by
  simp only [faultMet, reduceCtorEq, ite_eq_right_iff, imp_false]
  omega

theorem faultMet_ret_eq_none {s : State} : faultMet .ret s = none ↔ s.sp.val ≠ 0 := by simp [faultMet]

theorem faultMet_drw_eq_none {x y : Reg} {n : Fin 16} {s : State} :
    faultMet (.drw x y n) s = none ↔ n.val = 0 ∨ s.dataAddr + n.val ≤ 4096 := by
  simp only [faultMet, reduceCtorEq, ite_eq_right_iff, imp_false, State.dataAddr]
  omega

theorem faultMet_ldB_eq_none {x : Reg} {s : State} : faultMet (.ldB x) s = none ↔ s.dataAddr + 3 ≤ 4096 := by
  simp only [faultMet, reduceCtorEq, ite_eq_right_iff, imp_false, State.dataAddr]
  omega

theorem faultMet_storeRegs_eq_none {x : Reg} {s : State} :
    faultMet (.storeRegs x) s = none ↔ s.dataAddr + (x.val + 1) ≤ 4096 := by
  simp only [faultMet, reduceCtorEq, ite_eq_right_iff, imp_false, State.dataAddr]
  omega

theorem faultMet_loadRegs_eq_none {x : Reg} {s : State} :
    faultMet (.loadRegs x) s = none ↔ s.dataAddr + (x.val + 1) ≤ 4096 := faultMet_storeRegs_eq_none (x := x)

theorem exec_callAddr_of_lt (nnn : Addr) {s : State} (h : s.sp.val < 16) :
    exec (.callAddr nnn) s = .next (State.setPC (addrWord nnn)
      { s.advancePC with stack := s.stack.set s.sp.val (s.pc + 2), sp := ⟨s.sp.val + 1, by omega⟩ }) := by
  simp only [exec, execCallAddr, State.push_of_lt _ s.advancePC h]
  rfl

theorem exec_ret_of_ne {s : State} (h : s.sp.val ≠ 0) :
    exec .ret s = .next (State.setPC (s.stack[s.sp.val - 1]'(by omega))
      { s.advancePC with sp := ⟨s.sp.val - 1, by omega⟩ }) := by
  simp only [exec, execRet, State.pop_of_ne s.advancePC h]
  rfl

/-- A sprite drawn: its cells toggled, `VF` the collision, and `SendDraw` emitted (R175, R176). -/
def State.drawn (cells : List Cell) (s : State) : State :=
  ((s.setFB (drawCells cells s.fb false).1).setFlag (drawCells cells s.fb false).2).emit .sendDraw

theorem sameBut_drawn (cells : List Cell) (s : State) : SameBut [.registers, .pixels, .commands] s (s.drawn cells) :=
  (((sameBut_setFB _ _).append (sameBut_setFlag _ _)).append (sameBut_emit _ _)).mono (by simp)

theorem exec_drw_of_fits (x y : Reg) {n : Fin 16} {s : State} (h : n.val = 0 ∨ s.dataAddr + n.val ≤ 4096) :
    exec (.drw x y n) s =
      .next (s.advancePC.drawn (drwCells (s.getV x) (s.getV y) (s.mem.readBlock s.dataAddr n.val))) := by
  have hread : memReadBlock s.mem s.dataAddr n.val = some (s.mem.readBlock s.dataAddr n.val) :=
    memReadBlock_eq_some.mpr ⟨h, rfl⟩
  simp only [exec, execDrw, hread]
  rfl

theorem exec_ldB_of_fits (x : Reg) {s : State} (h : s.dataAddr + 3 ≤ 4096) :
    exec (.ldB x) s = .next (s.advancePC.loadBytes s.dataAddr (bcdDigits (s.getV x))) := by
  have hwrite : memWriteBlock s.mem s.dataAddr (bcdDigits (s.getV x)) = some _ := memWriteBlock_eq_some.mpr ⟨.inr h, rfl⟩
  simp only [exec, execLdB, hwrite]
  rfl

theorem exec_storeRegs_of_fits {x : Reg} {s : State} (h : s.dataAddr + (x.val + 1) ≤ 4096) :
    exec (.storeRegs x) s = .next (s.advancePC.loadBytes s.dataAddr (s.regsUpTo x)) := by
  have hwrite : memWriteBlock s.mem s.dataAddr (s.regsUpTo x) = some _ :=
    memWriteBlock_eq_some.mpr ⟨.inr (by simpa using h), rfl⟩
  simp only [exec, execStoreRegs, hwrite]
  rfl

theorem exec_loadRegs_of_fits {x : Reg} {s : State} (h : s.dataAddr + (x.val + 1) ≤ 4096) :
    exec (.loadRegs x) s = .next (s.advancePC.setRegs (s.mem.readBlock s.dataAddr (x.val + 1))) := by
  have hread : memReadBlock s.mem s.dataAddr (x.val + 1) = some _ := memReadBlock_eq_some.mpr ⟨.inr h, rfl⟩
  simp only [exec, execLoadRegs, hread]

/-! ### The two outcomes of an instruction -/

/-- An instruction that meets a fault of the table takes it on the state as it is, with its encoding as the word. -/
theorem exec_of_faultMet {i : Instr} {s : State} {k : FaultKind} (h : faultMet i s = some k) :
    exec i s = .next (s.faulted k (encode i)) := by
  have hi : s.dataAddr = s.i.toNat := rfl
  cases i <;> simp only [faultMet, Option.ite_none_right_eq_some, Option.some.injEq, reduceCtorEq] at h
  case sysAddr nnn => cases h; rfl
  case callAddr nnn =>
    obtain ⟨hsp, rfl⟩ := h
    have hpush : s.advancePC.push s.advancePC.pc = none := State.push_full _ _ (by simp [hsp])
    simp only [exec, execCallAddr, hpush]
    rfl
  case ret =>
    obtain ⟨hsp, rfl⟩ := h
    simp only [exec, execRet, State.pop_empty s.advancePC hsp]
    rfl
  case drw x y n =>
    obtain ⟨hn, rfl⟩ := h
    have hread : memReadBlock s.mem s.dataAddr n.val = none := memReadBlock_eq_none.mpr (by omega)
    simp only [exec, execDrw, hread]
    rfl
  case ldB x =>
    obtain ⟨hn, rfl⟩ := h
    have hwrite : memWriteBlock s.mem s.dataAddr (bcdDigits (s.getV x)) = none :=
      memWriteBlock_eq_none.mpr ⟨by simp [bcdDigits], by rw [length_bcdDigits]; omega⟩
    simp only [exec, execLdB, hwrite]
    rfl
  case storeRegs x =>
    obtain ⟨hn, rfl⟩ := h
    have hlen : (s.regsUpTo x).length = x.val + 1 := s.length_regsUpTo x
    have hwrite : memWriteBlock s.mem s.dataAddr (s.regsUpTo x) = none :=
      memWriteBlock_eq_none.mpr ⟨List.ne_nil_of_length_eq_add_one hlen, by omega⟩
    simp only [exec, execStoreRegs, hwrite]
    rfl
  case loadRegs x =>
    obtain ⟨hn, rfl⟩ := h
    have hread : memReadBlock s.mem s.dataAddr (x.val + 1) = none := memReadBlock_eq_none.mpr (by omega)
    simp only [exec, execLoadRegs, hread]
    rfl

/-- The parts an instruction that completes may write: those of `mayWrite` without the fault latch. -/
def completingParts (i : Instr) : List Part := (mayWrite i).filter fun p => p != .halted && p != .faultRecord

theorem completingParts_subset (i : Instr) : completingParts i ⊆ mayWrite i := List.filter_subset_self _

/-- An instruction that meets no fault completes within its parts. -/
theorem exec_of_no_fault {i : Instr} {s : State} (h : faultMet i s = none) :
    ∃ t, exec i s = .next t ∧ SameBut (completingParts i) s t := by
  cases i
  case sysAddr => cases h
  case callAddr nnn =>
    refine ⟨_, exec_callAddr_of_lt nnn (faultMet_callAddr_eq_none.mp h), ?_⟩
    intro p hp
    cases p <;> simp_all [Part.Same, completingParts, mayWrite, State.getV]
  case ret =>
    refine ⟨_, exec_ret_of_ne (faultMet_ret_eq_none.mp h), ?_⟩
    intro p hp
    cases p <;> simp_all [Part.Same, completingParts, mayWrite, State.getV]
  case drw x y n =>
    exact ⟨_, exec_drw_of_fits x y (faultMet_drw_eq_none.mp h), (sameBut_drawn _ _).after_advancePC⟩
  case ldB x => exact ⟨_, exec_ldB_of_fits x (faultMet_ldB_eq_none.mp h), (sameBut_loadBytes _ _ _).after_advancePC⟩
  case storeRegs x =>
    exact ⟨_, exec_storeRegs_of_fits (faultMet_storeRegs_eq_none.mp h), (sameBut_loadBytes _ _ _).after_advancePC⟩
  case loadRegs x =>
    exact ⟨_, exec_loadRegs_of_fits (faultMet_loadRegs_eq_none.mp h), (sameBut_setRegs _ _).after_advancePC⟩
  case cls => exact ⟨_, rfl, ((sameBut_setFB _ _).append (sameBut_emit _ _)).after_advancePC⟩
  case jpAddr | jpV0 => exact ⟨_, rfl, sameBut_setPC_advancePC _ s⟩
  case seByte | sneByte | seReg | sneReg | skp | sknp => exact ⟨_, rfl, (sameBut_advancePC s).trans (sameBut_skipIf _ _)⟩
  case ldI | addI | ldF => exact ⟨_, rfl, (sameBut_setI _ _).after_advancePC⟩
  case rnd => exact ⟨_, rfl, ((sameBut_setV _ _ _).append (sameBut_countDraw _)).after_advancePC⟩
  case ldVxK => exact ⟨_, rfl, (sameBut_waitForKey _ _).after_advancePC⟩
  case ldDTVx => exact ⟨_, rfl, (sameBut_setDT _ _).after_advancePC⟩
  case ldSTVx => exact ⟨_, rfl, (sameBut_setST _ _).after_advancePC⟩
  case addReg | subReg | shr | subnReg | shl => exact ⟨_, rfl, (sameBut_setResult _ _ _ _).after_advancePC⟩
  all_goals exact ⟨_, rfl, (sameBut_setV _ _ _).after_advancePC⟩

/-- What an instruction can do, said once: it takes the table's fault, or completes within its parts. -/
theorem exec_cases {i : Instr} {s t : State} (h : exec i s = .next t) :
    (∃ k, faultMet i s = some k ∧ t = s.faulted k (encode i)) ∨
    (faultMet i s = none ∧ SameBut (completingParts i) s t) := by
  cases hf : faultMet i s with
  | some k =>
    rw [exec_of_faultMet hf] at h
    cases h
    exact .inl ⟨k, rfl, rfl⟩
  | none =>
    obtain ⟨u, hu, hframe⟩ := exec_of_no_fault hf
    rw [hu] at h
    cases h
    exact .inr ⟨rfl, hframe⟩

theorem sameBut_of_completes {i : Instr} {s t : State} (hf : faultMet i s = none) (h : exec i s = .next t) :
    SameBut (completingParts i) s t := by
  obtain ⟨k, hk, -⟩ | ⟨-, hframe⟩ := exec_cases h
  · rw [hf] at hk; cases hk
  · exact hframe

theorem latch_not_mem_completingParts (i : Instr) : .halted ∉ completingParts i ∧ .faultRecord ∉ completingParts i := by
  simp [completingParts]

theorem latch_eq_of_completingParts {i : Instr} {s t : State} (h : SameBut (completingParts i) s t) :
    t.halted = s.halted ∧ t.fault = s.fault :=
  ⟨h .halted (latch_not_mem_completingParts i).1, h .faultRecord (latch_not_mem_completingParts i).2⟩

/-- Only the instructions of the fault table name the latch among their parts. -/
theorem latch_subset_mayWrite {i : Instr} {s : State} {k : FaultKind} (h : faultMet i s = some k) :
    [.halted, .faultRecord] ⊆ mayWrite i := by
  cases i <;> simp [faultMet, mayWrite] at h ⊢

/-- Settles O19: the two outcomes of an instruction (`exec_of_faultMet`, `exec_of_no_fault`), by what `faultMet` answers. -/
theorem instructionFaultsExactlyAsTabled : Obligations.InstructionFaultsExactlyAsTabled := by
  intro i s
  cases hf : faultMet i s with
  | some k =>
    refine ⟨_, exec_of_faultMet hf, fun k' hk => ?_, by simp⟩
    cases hk
    exact ⟨rfl, rfl, sameBut_faulted k _ s⟩
  | none =>
    obtain ⟨t, ht, hframe⟩ := exec_of_no_fault hf
    exact ⟨t, ht, by simp, fun _ => latch_eq_of_completingParts hframe⟩

/-- Settles O29: a fault writes the latch, which the instruction then names (`latch_subset_mayWrite`); else `completingParts` bounds
the change. -/
theorem instructionsWriteOnlyTheirParts : Obligations.InstructionsWriteOnlyTheirParts := by
  intro i s t h
  obtain ⟨k, hk, rfl⟩ | ⟨-, hframe⟩ := exec_cases h
  · exact (sameBut_faulted k _ s).mono (latch_subset_mayWrite hk)
  · exact hframe.mono (completingParts_subset i)

end Sys2Proof.Machine
end

section
/-! SUPPORT. Control flow: `JP V0`, `CALL`, `RET`, `SYS`, pairs with no execution rule, and who writes `PC`
(spec/41_jump_call_return.md R111 to R113; spec/48_sys_undefined.md R195, R197; spec/40_cycle.md R94). -/

namespace Sys2Proof.Machine

/-! ### JP V0, CALL, RET -/

theorem exec_jpV0 (nnn : Addr) (s : State) :
    exec (.jpV0 nnn) s = .next (s.advancePC.setPC (v0Target nnn (s.getV 0))) := rfl

/-- Settles O33: `PC` is set to the sum, which 16 bits hold (`v0Target_toNat`). -/
theorem jumpV0AddsRegisterZero : Obligations.JumpV0AddsRegisterZero := by
  intro nnn s
  exact ⟨_, exec_jpV0 nnn s, v0Target_toNat nnn _, sameBut_setPC_advancePC _ s⟩

/-- Settles O34: the push writes slot `SP` with the advanced `PC` (`exec_callAddr_of_lt`). -/
theorem callPushesReturnAddress : Obligations.CallPushesReturnAddress := by
  intro nnn s hsp
  have hexec := exec_callAddr_of_lt nnn hsp
  have hslot (j : Fin 16) : (s.stack.set s.sp.val (s.pc + 2))[j] = if j.val = s.sp.val then s.pc + 2 else s.stack[j] := by
    simp only [Fin.getElem_fin, Vector.getElem_set, eq_comm]
  exact ⟨_, hexec, addrWord_toNat nnn, rfl, hslot, sameBut_of_completes (faultMet_callAddr_eq_none.mpr hsp) hexec⟩

/-- Settles O35: 16 entries are the condition of the table's `StackOverflow`. -/
theorem callOnFullStackHalts : Obligations.CallOnFullStackHalts := by
  intro nnn s hsp
  have hfault : faultMet (.callAddr nnn) s = some .stackOverflow := if_pos hsp
  exact ⟨_, exec_of_faultMet hfault, rfl, rfl, formatAddr_toNat 0x2 nnn, rfl, sameBut_faulted _ _ s⟩

/-- Settles O36: the pop reads slot `SP - 1`, which is `j` (`exec_ret_of_ne`). -/
theorem returnPopsLastAddress : Obligations.ReturnPopsLastAddress := by
  intro s j hsp
  have hexec := exec_ret_of_ne (s := s) (by omega)
  have hslot : s.stack[s.sp.val - 1] = s.stack[j] := by simp [hsp]
  exact ⟨_, hexec, Nat.sub_eq_of_eq_add hsp, hslot, sameBut_of_completes (faultMet_ret_eq_none.mpr (by omega)) hexec⟩

/-- Settles O37: an empty stack is the condition of the table's `StackUnderflow`. -/
theorem returnOnEmptyStackHalts : Obligations.ReturnOnEmptyStackHalts := by
  intro s hsp
  have hfault : faultMet .ret s = some .stackUnderflow := if_pos hsp
  exact ⟨_, exec_of_faultMet hfault, rfl, rfl, sameBut_faulted _ _ s⟩

/-! ### SYS, and pairs with no execution rule -/

/-- Settles O59: the table gives `SYS` its fault in every state, and its word is the address. -/
theorem sysRaisesDecodeFailure : Obligations.SysRaisesDecodeFailure := by
  intro nnn s
  have hword : (formatAddr 0x0 nnn).toNat = nnn.toNat := by simp [formatAddr_toNat]
  exact ⟨_, exec_of_faultMet rfl, rfl, rfl, hword, rfl, sameBut_faulted _ _ s⟩

theorem executePair_of_error {op : Operation} {pat : OperandPattern} {r : DecodeReject} (h : Instr.ofPair op pat = .error r)
    (w : Word) (s : State) : executePair op pat w s = .next (s.faulted .decodeFailure w) := by
  simp only [executePair, h, takeFault_eq_faulted]

theorem executePair_pair (i : Instr) (w : Word) (s : State) : executePair i.pair.1 i.pair.2 w s = exec i s := by
  simp only [executePair, Instr.ofPair_pair]

/-- Settles O17: a pair that no instruction has is rejected, since an accepted one is its instruction's (`Instr.pair_of_ofPair`). -/
theorem unpairedOperationHalts : Obligations.UnpairedOperationHalts := by
  refine ⟨fun op pat w s hnone => ?_, executePair_pair⟩
  cases hpair : Instr.ofPair op pat with
  | ok i => exact absurd (Instr.pair_of_ofPair hpair) (hnone i)
  | error r => exact ⟨_, executePair_of_error hpair w s, rfl, rfl, sameBut_faulted _ w s⟩

/-! ### Who writes PC -/

/-- An instruction that completes advances `PC`, sets it, or skips. -/
theorem pc_of_completes {i : Instr} {s t : State} (hf : faultMet i s = none) (h : exec i s = .next t) :
    t.pc = s.pc + 2 ∨ (∃ n, i = .jpAddr n ∨ i = .jpV0 n ∨ i = .callAddr n) ∨ i = .ret ∨
      (t.pc = s.pc + 4 ∧ ∃ x y k, i = .seByte x k ∨ i = .sneByte x k ∨ i = .seReg x y ∨ i = .sneReg x y ∨ i = .skp x ∨
        i = .sknp x) := by
  have hskip (c : Bool) : (s.advancePC.skipIf c).pc = s.pc + 2 ∨ (s.advancePC.skipIf c).pc = s.pc + 4 := by
    rw [s.pc_skipIf_advancePC]
    cases c <;> simp
  cases i
  case jpAddr n | jpV0 n | callAddr n => exact .inr (.inl ⟨n, by simp⟩)
  case ret => exact .inr (.inr (.inl rfl))
  case seByte x k | sneByte x k => cases h; exact (hskip _).imp_right fun hpc => .inr (.inr ⟨hpc, x, 0, k, by simp⟩)
  case seReg x y | sneReg x y => cases h; exact (hskip _).imp_right fun hpc => .inr (.inr ⟨hpc, x, y, 0, by simp⟩)
  case skp x | sknp x => cases h; exact (hskip _).imp_right fun hpc => .inr (.inr ⟨hpc, x, 0, 0, by simp⟩)
  case sysAddr => cases hf
  case drw => cases (exec_drw_of_fits _ _ (faultMet_drw_eq_none.mp hf)).symm.trans h; exact .inl rfl
  case ldB => cases (exec_ldB_of_fits _ (faultMet_ldB_eq_none.mp hf)).symm.trans h; exact .inl rfl
  case storeRegs => cases (exec_storeRegs_of_fits (faultMet_storeRegs_eq_none.mp hf)).symm.trans h; exact .inl rfl
  case loadRegs => cases (exec_loadRegs_of_fits (faultMet_loadRegs_eq_none.mp hf)).symm.trans h; exact .inl rfl
  all_goals cases h; exact .inl rfl

/-- Settles O30: a fault keeps `PC`; an instruction that completes leaves the core running and moves `PC` by `pc_of_completes`. -/
theorem programCounterWriters : Obligations.ProgramCounterWriters := by
  intro i s t h hrun
  obtain ⟨k, -, rfl⟩ | ⟨hf, hframe⟩ := exec_cases h
  · exact ⟨fun _ => rfl, fun hhalt => by cases hhalt⟩
  · have hhalted : t.halted = false := (latch_eq_of_completingParts hframe).1.trans hrun
    exact ⟨fun hhalt => by simp [hhalted] at hhalt, fun _ => pc_of_completes hf h⟩

end Sys2Proof.Machine
end

section
/-! SUPPORT. Registers and flags: arithmetic, logic, shifts, `RND`, the index register, and who writes `VF`
(spec/44_arithmetic.md R150 to R161; spec/43_load.md R132, R137; spec/45_rnd.md R170; spec/10_state.md R11). -/

namespace Sys2Proof.Machine

/-! ### A result and its flag -/

/-- A result written to `V[x]` and then its flag to `VF`, after the fetch's advance (R161). -/
theorem writesWithFlag_setResult_advancePC {x : Reg} {b : Byte} {c : Bool} {flag : Prop} (hflag : c = true ↔ flag) (s : State) :
    WritesWithFlag x b flag s (s.advancePC.setResult x b c) := by
  have hVF : (s.advancePC.setResult x b c).getV VF = b2i c := by simp
  refine ⟨fun hx => by simp [hx], fun h => ?_, fun h => ?_, fun r hr => ?_, rfl, ?_⟩
  · rw [hVF, hflag.mpr h]; rfl
  · rw [hVF, Bool.eq_false_of_not_eq_true (mt hflag.mp h)]; rfl
  · simp only [List.mem_cons, List.not_mem_nil, or_false, not_or] at hr
    simp [hr.1, hr.2]
  · exact (sameBut_setResult x b c _).after_advancePC.mono (by simp)

theorem add_eq_ofNat (a b : Byte) : a + b = BitVec.ofNat 8 ((a.toNat + b.toNat) % 256) := by
  apply BitVec.eq_of_toNat_eq
  simp

theorem sub_eq_ofNat (a b : Byte) : a - b = BitVec.ofNat 8 ((a.toNat + 256 - b.toNat) % 256) := by
  apply BitVec.eq_of_toNat_eq
  rw [BitVec.toNat_sub, BitVec.toNat_ofNat]
  omega

theorem ushiftRight_one_eq_ofNat (a : Byte) : a >>> 1 = BitVec.ofNat 8 (a.toNat / 2) := by
  apply BitVec.eq_of_toNat_eq
  rw [BitVec.toNat_ushiftRight, BitVec.toNat_ofNat, Nat.shiftRight_eq_div_pow]
  omega

theorem shiftLeft_one_eq_ofNat (a : Byte) : a <<< 1 = BitVec.ofNat 8 (2 * a.toNat % 256) := by
  apply BitVec.eq_of_toNat_eq
  rw [BitVec.toNat_shiftLeft, BitVec.toNat_ofNat, Nat.shiftLeft_eq]
  omega

/-- Settles O50: one register is written (`writesOnly_setV_advancePC`), with the sum modulo 256. -/
theorem addImmediateWraps : Obligations.AddImmediateWraps := by
  intro x kk s
  rw [← add_eq_ofNat]
  exact ⟨_, rfl, writesOnly_setV_advancePC x _ s⟩

/-- Settles O51: one register is written, with the bitwise operation of the library. -/
theorem logicIsBitwise : Obligations.LogicIsBitwise := by
  intro x y s
  exact ⟨⟨_, _, rfl, writesOnly_setV_advancePC x _ s, fun _ _ => BitVec.getLsbD_or⟩,
    ⟨_, _, rfl, writesOnly_setV_advancePC x _ s, fun _ _ => BitVec.getLsbD_and⟩,
    ⟨_, _, rfl, writesOnly_setV_advancePC x _ s, fun _ _ => BitVec.getLsbD_xor⟩⟩

/-- Settles O52: the sum modulo 256 and the carry (`carry_iff`). -/
theorem addRegisterSetsCarry : Obligations.AddRegisterSetsCarry := by
  intro x y s
  rw [← add_eq_ofNat]
  exact ⟨_, rfl, writesWithFlag_setResult_advancePC (carry_iff _ _) s⟩

/-- Settles O53: the difference modulo 256 and the no-borrow of the operands in their order (`noBorrow_iff`). -/
theorem subtractSetsNoBorrow : Obligations.SubtractSetsNoBorrow := by
  intro x y s
  rw [← sub_eq_ofNat, ← sub_eq_ofNat]
  exact ⟨⟨_, rfl, writesWithFlag_setResult_advancePC (noBorrow_iff _ _) s⟩,
    ⟨_, rfl, writesWithFlag_setResult_advancePC (noBorrow_iff _ _) s⟩⟩

/-- Settles O54: half and double modulo 256, and the bit at each end of the old value. -/
theorem shiftsMoveOneBitInPlace : Obligations.ShiftsMoveOneBitInPlace := by
  intro x y s
  rw [← ushiftRight_one_eq_ofNat, ← shiftLeft_one_eq_ofNat]
  exact ⟨⟨_, rfl, writesWithFlag_setResult_advancePC (shiftedOutRight_iff _) s⟩,
    ⟨_, rfl, writesWithFlag_setResult_advancePC (shiftedOutLeft_iff _) s⟩⟩

/-! ### RND and the index register -/

/-- Settles O55: the write of a register, then the count of the draw, which touches no register. -/
theorem randomIsMaskedDraw : Obligations.RandomIsMaskedDraw := by
  intro x kk s
  obtain ⟨hread, hothers, hpc, -⟩ := writesOnly_setV_advancePC x (Config.rndByte s.draws &&& kk) s
  refine ⟨_, rfl, rfl, fun k _ => ?_, hothers, hpc, ?_⟩
  · rw [State.getV_countDraw, hread, BitVec.getLsbD_and, Bool.and_comm]
  · exact ((sameBut_setV _ _ _).append (sameBut_countDraw _)).after_advancePC.mono (by simp)

theorem exec_setI_spec {i : Instr} {s : State} {a : Word} {n : Nat} (hexec : exec i s = .next (s.advancePC.setI a))
    (ha : a.toNat = n) :
    ∃ t, exec i s = .next t ∧ t.i.toNat = n ∧ t.pc = s.pc + 2 ∧ SameBut [.index, .counter] s t :=
  ⟨_, hexec, ha, rfl, (sameBut_setI a _).after_advancePC.mono (by simp)⟩

/-- Settles O42: each writes `I` alone (`exec_setI_spec`), with the value its operand form gives. -/
theorem indexRegisterWrites : Obligations.IndexRegisterWrites := by
  intro x nnn s
  exact ⟨exec_setI_spec rfl (addrWord_toNat nnn), exec_setI_spec rfl (fontAddr_toNat _),
    exec_setI_spec rfl (indexSum_toNat _ _)⟩

/-! ### Who writes VF -/

theorem eq_VF_of_setV_changes {x : Reg} {b : Byte} {s : State} (h : (s.setV x b).getV VF ≠ s.getV VF) : x = VF := by
  by_contra hx
  exact h (by rw [State.getV_setV, if_neg (Ne.symm hx)])

theorem getV_VF_setFlag (c : Bool) (s : State) : (s.setFlag c).getV VF = 0 ∨ (s.setFlag c).getV VF = 1 := by
  simpa using b2i_eq_one_or_zero c

/-- A block of registers reaches `VF` only where it holds all sixteen. -/
theorem eq_VF_of_setRegs_changes {x : Reg} {bs : List Byte} {s : State} (hlen : bs.length = x.val + 1)
    (h : (s.setRegs bs).getV VF ≠ s.getV VF) : x = VF := by
  by_contra hx
  have hx15 : x.val ≠ 15 := fun hv => hx (Fin.ext hv)
  exact h (by rw [State.getV_setRegs, if_neg (by show ¬ 15 < bs.length; omega)])

/-- Settles O31: a register changes only in an instruction that may write one, as a flag, which is 0 or 1, or as the destination. -/
theorem flagRegisterWriters : Obligations.FlagRegisterWriters := by
  intro i s t h hVF
  have hwrites : Part.registers ∈ mayWrite i := by
    by_contra hno
    exact hVF (instructionsWriteOnlyTheirParts i s t h .registers hno VF)
  have hf : faultMet i s = none := by
    obtain ⟨k, -, rfl⟩ | ⟨hf, -⟩ := exec_cases h
    · exact absurd rfl hVF
    · exact hf
  cases i <;> simp [mayWrite] at hwrites
  case addReg x y | subReg x y | subnReg x y | shr x y | shl x y =>
    cases h
    exact .inl ⟨⟨x, y, 0, by simp⟩, getV_VF_setFlag _ _⟩
  case drw x y n =>
    cases (exec_drw_of_fits x y (faultMet_drw_eq_none.mp hf)).symm.trans h
    exact .inl ⟨⟨x, y, n, by simp⟩, getV_VF_setFlag _ _⟩
  case loadRegs x =>
    cases (exec_loadRegs_of_fits (faultMet_loadRegs_eq_none.mp hf)).symm.trans h
    cases eq_VF_of_setRegs_changes (Memory.length_readBlock _ _ _) hVF
    exact .inr ⟨0, 0, by simp⟩
  case ldByte x k | addByte x k | rnd x k =>
    cases h
    cases eq_VF_of_setV_changes hVF
    exact .inr ⟨0, k, by simp⟩
  case ldReg x y | orReg x y | andReg x y | xorReg x y =>
    cases h
    cases eq_VF_of_setV_changes hVF
    exact .inr ⟨y, 0, by simp⟩
  case ldVxDT x =>
    cases h
    cases eq_VF_of_setV_changes hVF
    exact .inr ⟨0, 0, by simp⟩

end Sys2Proof.Machine
end

section
/-! SUPPORT. Blocks of bytes in memory: `LD B`, `LD [I], Vx`, `LD Vx, [I]`, and the fetch of stored registers
(spec/43_load.md R138 to R140; spec/70_reset_and_hazards.md R239). -/

namespace Sys2Proof.Machine

theorem getElem_regsUpTo (s : State) {x r : Reg} (h : r.val ≤ x.val) :
    (s.regsUpTo x)[r.val]'(by simp; omega) = s.getV r := by
  rw [← List.getD_eq_getElem _ 0, State.getD_regsUpTo s x r h]

theorem getElem_bcdDigits_toNat (b : Byte) {j : Nat} (hj : j < (bcdDigits b).length) :
    ((bcdDigits b)[j]).toNat = [b.toNat / 100, b.toNat / 10 % 10, b.toNat % 10][j]'(by simpa using hj) := by
  simp only [← bcdDigits_toNat, List.getElem_map]

/-- Settles O47: the three digits are a block stored at `I` (`exec_ldB_of_fits`), which reads back and leaves every other byte. -/
theorem storeDecimalDigits : Obligations.StoreDecimalDigits := by
  intro x s hm hfit
  have hfit : s.dataAddr + (bcdDigits (s.getV x)).length ≤ 4096 := by
    rw [length_bcdDigits, State.dataAddr]; omega
  refine ⟨_, exec_ldB_of_fits x hfit, rfl, (sameBut_loadBytes _ _ _).after_advancePC.mono (by simp), ?_⟩
  rintro _ rfl
  have hdigit (j : Nat) (hj : j < (bcdDigits (s.getV x)).length) :
      ((s.advancePC.loadBytes s.dataAddr (bcdDigits (s.getV x))).mem.byteAt (s.dataAddr + j)).toNat =
        [(s.getV x).toNat / 100, (s.getV x).toNat / 10 % 10, (s.getV x).toNat % 10][j]'(by simpa using hj) := by
    rw [State.byteAt_loadBytes (s := s.advancePC) hm hfit hj, getElem_bcdDigits_toNat _ hj]
  exact ⟨hdigit 0 (by simp), hdigit 1 (by simp), hdigit 2 (by simp),
    sameMemoryOutside_loadBytes (s := s.advancePC) hm hfit⟩

/-- Settles O48: the registers are a block stored at `I` (`exec_storeRegs_of_fits`), which reads back and leaves the other bytes. -/
theorem storeRegisterBlock : Obligations.StoreRegisterBlock := by
  intro x s hm hfit
  have hlen : (s.regsUpTo x).length = x.val + 1 := s.length_regsUpTo x
  have hfit : s.dataAddr + (x.val + 1) ≤ 4096 := by rw [State.dataAddr]; omega
  refine ⟨_, exec_storeRegs_of_fits hfit, rfl, (sameBut_loadBytes _ _ _).after_advancePC.mono (by simp), ?_⟩
  rw [← hlen] at hfit
  rintro _ rfl
  refine ⟨fun r hr => ?_, ?_⟩
  · rw [State.byteAt_loadBytes (s := s.advancePC) hm hfit (by omega), getElem_regsUpTo s hr]
  · rw [← hlen]
    exact sameMemoryOutside_loadBytes (s := s.advancePC) hm hfit

/-- Settles O49: the block read from `I` is written to the first registers (`State.getV_setRegs`). -/
theorem loadRegisterBlock : Obligations.LoadRegisterBlock := by
  intro x s hfit
  have hfit : s.dataAddr + (x.val + 1) ≤ 4096 := by rw [State.dataAddr]; omega
  refine ⟨_, exec_loadRegs_of_fits hfit, rfl, (sameBut_setRegs _ _).after_advancePC.mono (by simp), fun r => ?_⟩
  rw [State.getV_setRegs, Memory.length_readBlock]
  by_cases hr : r.val ≤ x.val
  · rw [if_pos (by omega), if_pos hr, Memory.getD_readBlock _ _ _ _ (by omega)]
    rfl
  · rw [if_neg (by omega), if_neg hr]
    rfl

/-- Settles O28: both bytes of the word are stored registers, by O48. -/
theorem fetchSeesStoredRegisters : Obligations.FetchSeesStoredRegisters := by
  intro x r s t hm hfit hexec hr hpc
  obtain ⟨u, hu, -, -, hblock⟩ := storeRegisterBlock x s hm hfit
  cases hexec.symm.trans hu
  obtain ⟨hstored, -⟩ := hblock _ rfl
  have hhi : t.mem.byteAt (s.i.toNat + r.val) = s.getV r := hstored r (by omega)
  have hlo : t.mem.byteAt (s.i.toNat + r.val + 1) = s.getV ⟨r.val + 1, by omega⟩ := hstored ⟨r.val + 1, by omega⟩ hr
  rw [fetchWord_of_lt (by omega), hpc, hhi, hlo]

end Sys2Proof.Machine
end

section
/-! SUPPORT. Step 1 of a cycle: what the key events of a batch do (spec/40_cycle.md R91). -/

namespace Sys2Proof.Machine

theorem applyKeyEvents_concat (es : List KeyEvent) (e : KeyEvent) (s : State) :
    applyKeyEvents (es ++ [e]) s = applyKeyEvent (applyKeyEvents es s) e := by
  simp [applyKeyEvents]

theorem firstKeyDown_eq_none_iff (es : List KeyEvent) : firstKeyDown es = none ↔ ∀ e ∈ es, e.pressed = false := by
  simp [firstKeyDown]

/-- A key ends as the last event of its own says, and where there is none as it was. -/
theorem getElem_key_applyKeyEvents (es : List KeyEvent) (s : State) (k : Key) :
    (applyKeyEvents es s).key[k] = ((es.reverse.find? fun e => e.key == k).map (·.pressed)).getD s.key[k] := by
  induction es using List.reverseRecOn with
  | nil => rfl
  | append_singleton es e ih =>
    rw [applyKeyEvents_concat, getElem_key_applyKeyEvent, ih, List.reverse_append, List.reverse_singleton,
      List.singleton_append, List.find?_cons]
    by_cases hk : k = e.key
    · simp [hk]
    · simp [hk, beq_eq_false_iff_ne.mpr (Ne.symm hk)]

/-- The first key-down ends a pending wait; what follows it touches the key matrix alone. -/
theorem applyKeyEvents_of_wake {es : List KeyEvent} {s : State} {e : KeyEvent} (hw : s.kw.latched = true)
    (he : firstKeyDown es = some e) :
    ∃ key, applyKeyEvents es s =
      { s with key := key, v := s.v.set s.kw.reg (BitVec.ofNat 8 e.key.val), kw := ⟨false, s.kw.reg⟩ } := by
  induction es generalizing s with
  | nil => cases he
  | cons d es ih =>
    cases hd : d.pressed with
    | true =>
      obtain rfl : d = e := by simpa [firstKeyDown, hd] using he
      rw [applyKeyEvents_cons, applyKeyEvent_of_down hw hd]
      exact applyKeyEvents_of_no_wake (.inl rfl)
    | false =>
      have he : firstKeyDown es = some e := by simpa [firstKeyDown, hd] using he
      rw [applyKeyEvents_cons, applyKeyEvent_of_up (.inr hd)]
      exact ih (s := { s with key := s.key.set d.key d.pressed }) hw he

theorem sameBut_applyKeyEvents (es : List KeyEvent) (s : State) :
    SameBut [.registers, .keys, .keyWait] s (applyKeyEvents es s) := by
  intro p hp
  cases p <;> simp_all [Part.Same]

theorem sameBut_applyKeyEvents_of_no_wake {es : List KeyEvent} {s : State}
    (h : s.kw.latched = false ∨ firstKeyDown es = none) : SameBut [.keys] s (applyKeyEvents es s) := by
  obtain ⟨key, hkey⟩ := applyKeyEvents_of_no_wake (h.imp_right (firstKeyDown_eq_none_iff es).mp)
  rw [hkey]
  intro p hp
  cases p <;> simp_all [Part.Same, State.getV]

/-- Settles O21: keys by induction from the last event, the wake by induction to the first key-down, the frames for the rest. -/
theorem keyEventsAreAppliedInOrder : Obligations.KeyEventsAreAppliedInOrder := by
  rintro es s _ rfl
  refine ⟨getElem_key_applyKeyEvents es s, fun e hw he => ?_, sameBut_applyKeyEvents_of_no_wake, sameBut_applyKeyEvents es s⟩
  obtain ⟨key, hkey⟩ := applyKeyEvents_of_wake hw he
  have hreg (r : Reg) : (applyKeyEvents es s).getV r = (s.setV s.kw.reg (BitVec.ofNat 8 e.key.val)).getV r := by
    rw [hkey]; rfl
  refine ⟨by rw [hkey], ?_, fun r hr => (hreg r).trans (sameRegistersBut_setV _ _ s r hr)⟩
  rw [hreg, State.getV_setV, if_pos rfl]

end Sys2Proof.Machine
end

section
/-! SUPPORT. The cycle by its outcome: a fault of step 2, or the ticks and the publishing of the state after step 2
(spec/40_cycle.md R90 to R104). -/

namespace Sys2Proof.Machine

theorem State.WillExecute.running {s : State} {i : Instr} (h : s.WillExecute i) : s.halted = false := h.1

theorem State.WillExecute.not_waiting {s : State} {i : Instr} (h : s.WillExecute i) : s.kw.latched = false := h.2.1

/-! ### Frames of the cycle's steps -/

theorem sameBut_afterEvents (s : State) :
    SameBut [.hostEvents, .commands, .registers, .keys, .keyWait] s s.afterEvents :=
  (sameBut_beginCycle s).append (sameBut_applyKeyEvents s.nextEvents s.beginCycle)

theorem sameBut_afterEvents_of_no_wake {s : State} (h : s.kw.latched = false ∨ firstKeyDown s.nextEvents = none) :
    SameBut [.hostEvents, .commands, .keys] s s.afterEvents :=
  (sameBut_beginCycle s).append (sameBut_applyKeyEvents_of_no_wake (s := s.beginCycle) h)

theorem getV_afterEvents {s : State} (hwait : s.kw.latched = false) (r : Reg) : s.afterEvents.getV r = s.getV r :=
  sameBut_afterEvents_of_no_wake (.inl hwait) .registers (by simp) r

theorem sameBut_finishCycle (s : State) : SameBut [.delay, .sound, .commands] s (finishCycle s) := by
  intro p hp
  cases p <;> simp_all [Part.Same]

theorem sameBut_faulted_afterEvents {s : State} (hwait : s.kw.latched = false) (k : FaultKind) (w : Word) :
    SameBut [.keys, .halted, .faultRecord, .hostEvents, .commands] s (s.afterEvents.faulted k w) :=
  ((sameBut_afterEvents_of_no_wake (.inl hwait)).append (sameBut_faulted k w _)).mono (by simp)

/-! ### The two outcomes of a cycle -/

/-- A fault of step 2 ends the cycle there (R102). -/
theorem step_of_faulted {s : State} {k : FaultKind} {w : Word} (hrun : s.halted = false) (hwait : s.kw.latched = false)
    (h : fetchDecodeExecute s.afterEvents = .next (s.afterEvents.faulted k w)) :
    step s = .next (s.afterEvents.faulted k w) := by
  rw [step_active hrun hwait, h]
  rfl

/-- The state after step 2 is ticked and published. -/
theorem step_of_afterStepTwo {s u : State} (h : s.AfterStepTwo u) : step s = .next (finishCycle u) := by
  obtain ⟨hrun, hwait, rfl⟩ | ⟨i, hwill, hexec, hhalted⟩ := h
  · exact step_waiting hrun hwait
  · rw [step_of_willExecute hwill, hexec, afterExecute_of_not_halted hhalted]

theorem afterStepTwo_of_completes {s u : State} {i : Instr} (hwill : s.WillExecute i) (hexec : exec i s.afterEvents = .next u)
    (hf : faultMet i s.afterEvents = none) : s.AfterStepTwo u := by
  have hhalted : u.halted = s.afterEvents.halted := (latch_eq_of_completingParts (sameBut_of_completes hf hexec)).1
  exact .inr ⟨i, hwill, hexec, hhalted.trans ((s.afterEvents_halted).trans hwill.running)⟩

/-- What a cycle can do, said once: step 2 faults on the fetched word, and the cycle ends there; or it finishes from the state after
step 2. -/
theorem step_outcome {s : State} (hrun : s.halted = false) :
    (s.kw.latched = false ∧ ∃ k, step s = .next (s.afterEvents.faulted k ((fetchWord s).getD 0x0000))) ∨
    (∃ u, s.AfterStepTwo u ∧ step s = .next (finishCycle u)) := by
  cases hwait : s.kw.latched with
  | true =>
    have hafter : s.AfterStepTwo s.afterEvents := .inl ⟨hrun, hwait, rfl⟩
    exact .inr ⟨_, hafter, step_of_afterStepTwo hafter⟩
  | false =>
    cases hfetch : fetchWord s with
    | none =>
      have hfde := fetchDecodeExecute_of_no_fetch ((fetchWord_afterEvents s).trans hfetch)
      exact .inl ⟨rfl, _, step_of_faulted hrun hwait hfde⟩
    | some w =>
      have hfetch' : fetchWord s.afterEvents = some w := (fetchWord_afterEvents s).trans hfetch
      cases hdecode : decode w with
      | error r => exact .inl ⟨rfl, _, step_of_faulted hrun hwait (fetchDecodeExecute_of_undefined hfetch' hdecode)⟩
      | ok i =>
        cases hf : faultMet i s.afterEvents with
        | some k =>
          have hfde := (fetchDecodeExecute_of_decode hfetch' hdecode).trans (exec_of_faultMet hf)
          rw [(encodeOfDecode w i hdecode).2] at hfde
          exact .inl ⟨rfl, k, step_of_faulted hrun hwait hfde⟩
        | none =>
          obtain ⟨u, hu, -⟩ := exec_of_no_fault hf
          have hafter : s.AfterStepTwo u := afterStepTwo_of_completes ⟨hrun, hwait, w, hfetch, hdecode⟩ hu hf
          exact .inr ⟨u, hafter, step_of_afterStepTwo hafter⟩

theorem step_cases {s t : State} (hrun : s.halted = false) (h : step s = .next t) :
    (s.kw.latched = false ∧ ∃ k, t = s.afterEvents.faulted k ((fetchWord s).getD 0x0000)) ∨
    (∃ u, s.AfterStepTwo u ∧ t = finishCycle u) := by
  obtain ⟨hwait, k, hk⟩ | ⟨u, hu, hstep⟩ := step_outcome hrun
  · cases hk.symm.trans h; exact .inl ⟨hwait, k, rfl⟩
  · cases hstep.symm.trans h; exact .inr ⟨u, hu, rfl⟩

theorem halted_of_afterStepTwo {s u : State} (h : s.AfterStepTwo u) : u.halted = false := by
  obtain ⟨hrun, -, rfl⟩ | ⟨_, _, _, hhalted⟩ := h
  · rw [s.afterEvents_halted, hrun]
  · exact hhalted

/-- Settles O13: the cycle of a decoded instruction is `afterExecute` of its execution (`step_of_willExecute`). -/
theorem stepExecutesDecodedInstruction : Obligations.StepExecutesDecodedInstruction := by
  intro s u i hwill hexec
  rw [step_of_willExecute hwill, hexec]
  rfl

/-- Settles O14: a halted core answers the begun cycle, a running one either outcome of `step_outcome`. -/
theorem stepAlwaysAnswersNext : Obligations.StepAlwaysAnswersNext := by
  intro s
  cases hrun : s.halted with
  | true => exact ⟨_, step_halted hrun⟩
  | false =>
    obtain ⟨-, k, hk⟩ | ⟨u, -, hstep⟩ := step_outcome hrun
    · exact ⟨_, hk⟩
    · exact ⟨_, hstep⟩

theorem faulted_afterEvents_spec {s : State} (hwait : s.kw.latched = false) (k : FaultKind) (w : Word) :
    (s.afterEvents.faulted k w).halted = true ∧ (s.afterEvents.faulted k w).fault = ⟨k, w, s.pc⟩ ∧
    (s.afterEvents.faulted k w).out = [] ∧
    SameBut [.keys, .halted, .faultRecord, .hostEvents, .commands] s (s.afterEvents.faulted k w) :=
  ⟨rfl, by simp, by simp, sameBut_faulted_afterEvents hwait k w⟩

/-- Settles O15: step 2 takes `DecodeFailure` on the state after step 1, and the cycle ends there. -/
theorem undefinedWordHalts : Obligations.UndefinedWordHalts := by
  intro s w r hrun hwait hfetch hdecode
  have hfde := fetchDecodeExecute_of_undefined ((fetchWord_afterEvents s).trans hfetch) hdecode
  exact ⟨_, step_of_faulted hrun hwait hfde, faulted_afterEvents_spec hwait _ w⟩

/-- Settles O16: the fetch takes `MemoryRange` on the state after step 1, and the cycle ends there. -/
theorem fetchOutOfRangeHalts : Obligations.FetchOutOfRangeHalts := by
  intro s hrun hwait hpc
  have hfetch : fetchWord s.afterEvents = none := (fetchWord_afterEvents s).trans ((fetchWord_eq_none_iff s).mpr hpc)
  exact ⟨_, step_of_faulted hrun hwait (fetchDecodeExecute_of_no_fetch hfetch), faulted_afterEvents_spec hwait _ _⟩

/-- Settles O20: a cycle that ends halted is the first outcome of `step_cases`, since one that finishes leaves the core running. -/
theorem faultingCycleIsPrecise : Obligations.FaultingCycleIsPrecise := by
  intro s t hrun hstep hhalt
  obtain ⟨hwait, k, rfl⟩ | ⟨u, hu, rfl⟩ := step_cases hrun hstep
  · obtain ⟨-, hfault, hout, hframe⟩ := faulted_afterEvents_spec hwait k ((fetchWord s).getD 0x0000)
    exact ⟨hwait, hout, by rw [hfault], by rw [hfault], hframe⟩
  · rw [finishCycle_halted, halted_of_afterStepTwo hu] at hhalt
    cases hhalt

end Sys2Proof.Machine
end

section
/-! SUPPORT. Timers, commands and the key wait, cycle by cycle (spec/40_cycle.md R92, R96 to R101; spec/60_exceptions.md R220;
spec/43_load.md R134 to R136; spec/70_reset_and_hazards.md R244). -/

namespace Sys2Proof.Machine

/-! ### Timers -/

theorem tick_zero : tick 0 = 0 := rfl

theorem tick_of_ne_zero {b : Byte} (h : b ≠ 0) : tick b = b - 1 := if_neg h

theorem afterStepTwo_setDT {s : State} {x : Reg} (h : s.WillExecute (.ldDTVx x)) :
    s.AfterStepTwo (s.afterEvents.advancePC.setDT (s.getV x)) := by
  rw [← getV_afterEvents h.not_waiting x]
  exact afterStepTwo_of_completes h rfl rfl

theorem afterStepTwo_setST {s : State} {x : Reg} (h : s.WillExecute (.ldSTVx x)) :
    s.AfterStepTwo (s.afterEvents.advancePC.setST (s.getV x)) := by
  rw [← getV_afterEvents h.not_waiting x]
  exact afterStepTwo_of_completes h rfl rfl

/-- Settles O24: step 3 ticks the value after step 2 (`step_of_afterStepTwo`); the two loads are read off their execution. -/
theorem delayTimerTicksOncePerCycle : Obligations.DelayTimerTicksOncePerCycle := by
  refine ⟨fun s u hu => ⟨_, step_of_afterStepTwo hu, tick_of_ne_zero, fun h => ?_⟩, fun s x h => ?_, fun s x h => ?_⟩
  · rw [finishCycle_dt, h, tick_zero]
  · refine ⟨_, ?_, rfl, afterStepTwo_setDT h⟩
    rw [← getV_afterEvents h.not_waiting x]
    rfl
  · obtain ⟨t, ht, hread, -⟩ := (loadFromDelayTimer x s).2 h
    exact ⟨t, ht, hread⟩

/-- Settles O44: step 2 writes `DT` alone, and step 3 ticks what it wrote. -/
theorem loadToDelayTimer : Obligations.LoadToDelayTimer := by
  intro x s
  refine ⟨⟨_, rfl, rfl, rfl, (sameBut_setDT _ _).after_advancePC.mono (by simp)⟩, fun h => ?_⟩
  exact ⟨_, step_of_afterStepTwo (afterStepTwo_setDT h), tick_toNat (s.getV x)⟩

/-! ### Commands -/

/-- The display commands an instruction can emit: none, or one. -/
theorem display_of_exec {i : Instr} {s t : State} (h : exec i s = .next t) :
    ∃ display ∈ [[], [Command.sendClearDisplay], [Command.sendDraw]], t.out = s.out ++ display := by
  by_cases hemits : Part.commands ∈ mayWrite i
  · obtain ⟨k, -, rfl⟩ | ⟨hf, -⟩ := exec_cases h
    · exact ⟨[], by simp, by simp⟩
    cases i <;> simp [mayWrite] at hemits
    case cls => cases h; exact ⟨[.sendClearDisplay], by simp, rfl⟩
    case drw =>
      cases (exec_drw_of_fits _ _ (faultMet_drw_eq_none.mp hf)).symm.trans h
      exact ⟨[.sendDraw], by simp, rfl⟩
  · have hout : t.out = s.out := instructionsWriteOnlyTheirParts i s t h .commands hemits
    exact ⟨[], by simp, by simp [hout]⟩

theorem display_of_afterStepTwo {s u : State} (h : s.AfterStepTwo u) :
    u.out ∈ [[], [Command.sendClearDisplay], [Command.sendDraw]] := by
  obtain ⟨-, -, rfl⟩ | ⟨i, -, hexec, -⟩ := h
  · simp
  · obtain ⟨display, hmem, hout⟩ := display_of_exec hexec
    rwa [hout, State.afterEvents_out, List.nil_append]

theorem audioCommand_mem (b : Byte) : audioCommand b ∈ [[], [Command.play], [Command.pause]] := by
  unfold audioCommand
  split <;> split <;> simp

theorem audioCommand_eq (b : Byte) :
    audioCommand b = if b.toNat ≥ 2 then [.play] else if b.toNat = 1 then [.pause]
      else if Config.pauseWhenIdle then [.pause] else [] := by
  have hzero (c : Byte) : c = 0 ↔ c.toNat = 0 := ⟨fun h => h ▸ rfl, fun h => BitVec.eq_of_toNat_eq h⟩
  have htick : tick b = 0 ↔ b.toNat - 1 = 0 := by rw [hzero, tick_toNat]
  simp only [audioCommand, htick, hzero b]
  by_cases h0 : b.toNat = 0
  · simp [h0]
  · by_cases h1 : b.toNat = 1
    · simp [h1]
    · rw [if_neg h0, if_neg (by omega), if_pos (by omega)]

/-- Settles O26: step 2 emits at most one display command, step 4 at most one audio command, and step 5 the copies. -/
theorem commandsLeaveInOrder : Obligations.CommandsLeaveInOrder := by
  intro s t hrun hstep hhalt
  obtain ⟨-, k, rfl⟩ | ⟨u, hu, rfl⟩ := step_cases hrun hstep
  · cases hhalt
  · exact ⟨u.out, display_of_afterStepTwo hu, audioCommand u.st, audioCommand_mem u.st, by simp [snapshots]⟩

/-- The audio commands among those of a finished cycle are those of step 4. -/
theorem filter_audio_finishCycle {s u : State} (h : s.AfterStepTwo u) :
    (finishCycle u).out.filter (fun c => c == .play || c == .pause) = audioCommand u.st := by
  have hdisplay : u.out.filter (fun c => c == .play || c == .pause) = [] := by
    have := display_of_afterStepTwo h
    simp only [List.mem_cons, List.not_mem_nil, or_false] at this
    rcases this with hout | hout | hout <;> rw [hout] <;> rfl
  have haudio : (audioCommand u.st).filter (fun c => c == .play || c == .pause) = audioCommand u.st := by
    have := audioCommand_mem u.st
    simp only [List.mem_cons, List.not_mem_nil, or_false] at this
    rcases this with hout | hout | hout <;> rw [hout] <;> rfl
  have hcopies : (snapshots u).filter (fun c => c == .play || c == .pause) = [] := by
    unfold snapshots
    split <;> rfl
  rw [finishCycle_out, List.filter_append, List.filter_append, hdisplay, haudio, hcopies, List.nil_append, List.append_nil]

/-- Settles O25: step 4 ticks the value after step 2 and its command is the only audio command (`filter_audio_finishCycle`). -/
theorem audioFollowsSoundTimer : Obligations.AudioFollowsSoundTimer := by
  intro s u hu
  exact ⟨_, step_of_afterStepTwo hu, tick_toNat u.st, (filter_audio_finishCycle hu).trans (audioCommand_eq u.st)⟩

/-- Settles O45: step 2 writes `ST` alone, step 4 ticks it, and `Play` is among the commands as O25 lists them. -/
theorem loadToSoundTimer : Obligations.LoadToSoundTimer := by
  intro x s
  refine ⟨⟨_, rfl, rfl, rfl, (sameBut_setST _ _).after_advancePC.mono (by simp)⟩, fun h => ?_⟩
  obtain ⟨t, ht, hst, haudio⟩ := audioFollowsSoundTimer s _ (afterStepTwo_setST h)
  rw [State.setST_st] at hst haudio
  refine ⟨t, ht, hst, ?_⟩
  have hfilter : Command.play ∈ t.out ↔ Command.play ∈ t.out.filter (fun c => c == .play || c == .pause) := by simp
  rw [hfilter, haudio]
  split
  · simp [*]
  · split
    · simp [*]
    · split <;> simp [*]

/-! ### The key wait -/

/-- Settles O46: the latch is set in step 2, after the key events of the cycle, which on a core that was not waiting write no
register. -/
theorem waitForKeySetsLatch : Obligations.WaitForKeySetsLatch := by
  intro x s
  refine ⟨⟨_, rfl, rfl, rfl, (sameBut_waitForKey _ _).after_advancePC.mono (by simp)⟩, fun h => ?_⟩
  have hafter : s.AfterStepTwo (s.afterEvents.advancePC.waitForKey x) := afterStepTwo_of_completes h rfl rfl
  exact ⟨_, step_of_afterStepTwo hafter, rfl, by simp, fun r _ => getV_afterEvents h.not_waiting r⟩

theorem sameBut_waitingCycle (s : State) :
    SameBut [.registers, .delay, .sound, .keys, .keyWait, .hostEvents, .commands] s (finishCycle s.afterEvents) :=
  ((sameBut_afterEvents s).append (sameBut_finishCycle _)).mono (by simp)

/-- A waiting cycle without a key-down leaves the wait and the registers too. -/
theorem sameBut_waitingCycle_of_no_wake {s : State} (h : firstKeyDown s.nextEvents = none) :
    SameBut [.delay, .sound, .keys, .hostEvents, .commands] s (finishCycle s.afterEvents) :=
  ((sameBut_afterEvents_of_no_wake (.inr h)).append (sameBut_finishCycle _)).mono (by simp)

/-- Settles O22: a waiting cycle is step 1 and the ticks (`step_waiting`); the wait ends as O21 says. -/
theorem waitingCycle : Obligations.WaitingCycle := by
  intro s hrun hwait
  obtain ⟨-, hwake, -, -⟩ := keyEventsAreAppliedInOrder s.nextEvents s.beginCycle s.afterEvents rfl
  refine ⟨_, step_waiting hrun hwait, by simpa using hrun, ?_, ?_, fun hnone => ?_, fun e he => ?_, sameBut_waitingCycle s⟩
  · rw [finishCycle_dt, tick_toNat, s.afterEvents_dt]
  · rw [finishCycle_st, tick_toNat, s.afterEvents_st]
  · have hframe := sameBut_waitingCycle_of_no_wake hnone
    exact ⟨hframe .keyWait (by simp), fun r _ => hframe .registers (by simp) r⟩
  · obtain ⟨hkw, hreg, hothers⟩ := hwake e hwait he
    refine ⟨hkw, ?_, hothers⟩
    have hbyte : (BitVec.ofNat 8 e.key.val).toNat = e.key.val := by rw [BitVec.toNat_ofNat]; omega
    exact (congrArg BitVec.toNat hreg).trans hbyte

/-- Settles O23: by induction on the number of cycles; the batches still to come hold no key-down either. -/
theorem keyWaitNeverTimesOut : Obligations.KeyWaitNeverTimesOut := by
  intro n
  induction n with
  | zero => exact fun s _ _ _ => ⟨s, run_zero s, rfl, .refl _ s⟩
  | succ n ih =>
    intro s hrun hwait hkeys
    have hup : ∀ e ∈ s.nextEvents, e.pressed = false := by
      intro e he
      cases hinput : s.keyInput with
      | nil => simp [State.nextEvents, hinput] at he
      | cons batch rest => exact hkeys batch (by simp [hinput]) e (by simpa [State.nextEvents, hinput] using he)
    have hframe := sameBut_waitingCycle_of_no_wake ((firstKeyDown_eq_none_iff _).mpr hup)
    have hkw : (finishCycle s.afterEvents).kw = s.kw := hframe .keyWait (by simp)
    obtain ⟨t, ht, htkw, htframe⟩ := ih (finishCycle s.afterEvents) (by simpa using hrun) (by rw [hkw, hwait])
      (by simpa using fun batch hb => hkeys batch (List.mem_of_mem_tail hb))
    exact ⟨t, (run_succ (step_waiting hrun hwait) n).trans ht, htkw.trans hkw, hframe.trans htframe⟩

/-! ### The self-jump -/

theorem State.WillExecute.congr {s t : State} {i : Instr} (h : s.WillExecute i) (hhalted : t.halted = s.halted)
    (hkw : t.kw = s.kw) (hpc : t.pc = s.pc) (hmem : t.mem = s.mem) : t.WillExecute i := by
  simpa only [State.WillExecute, fetchWord_eq, hhalted, hkw, hpc, hmem] using h

/-- Settles O27: the jump sets `PC` to its own address, and the cycle changes nothing else that the next fetch reads. -/
theorem selfJumpSpins : Obligations.SelfJumpSpins := by
  rintro s ⟨nnn, hwill, hself⟩
  have hwait : s.kw.latched = false := hwill.not_waiting
  have htarget : addrWord nnn = s.pc := BitVec.eq_of_toNat_eq ((addrWord_toNat nnn).trans hself.symm)
  have hafter : s.AfterStepTwo (s.afterEvents.advancePC.setPC (addrWord nnn)) := afterStepTwo_of_completes hwill rfl rfl
  have hevents := sameBut_afterEvents_of_no_wake (s := s) (.inl hwait)
  have hkw : s.afterEvents.kw = s.kw := hevents .keyWait (by simp)
  refine ⟨_, step_of_afterStepTwo hafter, ⟨nnn, hwill.congr ?_ hkw ?_ ?_, ?_⟩, fun p hp => ?_⟩
  · simp
  · simp [htarget]
  · simp
  · simp [htarget, hself]
  · by_cases hcounter : p = .counter
    · subst hcounter
      exact htarget
    · have hframe := (hevents.append (sameBut_setPC_advancePC (addrWord nnn) s.afterEvents)).append (sameBut_finishCycle _)
      refine hframe p ?_
      simp only [List.mem_append, List.mem_cons, List.not_mem_nil, or_false] at hp ⊢
      tauto

end Sys2Proof.Machine
end

section
/-! SUPPORT. The invariant: each of its four clauses over an instruction, then over a cycle (spec/10_state.md R12 to R14, R20). -/

namespace Sys2Proof.Machine

/-- The invariant speaks of memory, `I`, `PC` and the stack alone. -/
theorem State.Inv.congr {s t : State} (h : s.Inv) (hmem : t.mem = s.mem) (hi : t.i = s.i) (hpc : t.pc = s.pc)
    (hstack : t.stack = s.stack) : t.Inv := by
  simpa only [State.Inv, hmem, hi, hpc, hstack] using h

theorem mem_wf_of_completes {i : Instr} {s t : State} (hf : faultMet i s = none) (h : exec i s = .next t)
    (hm : s.mem.wf = true) : t.mem.wf = true := by
  cases i
  case sysAddr => cases hf
  case callAddr => cases (exec_callAddr_of_lt _ (faultMet_callAddr_eq_none.mp hf)).symm.trans h; exact hm
  case ret => cases (exec_ret_of_ne (faultMet_ret_eq_none.mp hf)).symm.trans h; exact hm
  case drw => cases (exec_drw_of_fits _ _ (faultMet_drw_eq_none.mp hf)).symm.trans h; exact hm
  case ldB x =>
    have hfit := faultMet_ldB_eq_none.mp hf
    cases (exec_ldB_of_fits _ hfit).symm.trans h
    exact State.loadBytes_wf (s := s.advancePC) hm (.inr hfit)
  case storeRegs x =>
    have hfit := faultMet_storeRegs_eq_none.mp hf
    cases (exec_storeRegs_of_fits hfit).symm.trans h
    exact State.loadBytes_wf (s := s.advancePC) hm (.inr (by simpa using hfit))
  case loadRegs => cases (exec_loadRegs_of_fits (faultMet_loadRegs_eq_none.mp hf)).symm.trans h; exact hm
  all_goals cases h; exact hm

/-- `I` keeps below 2^12: `LD I` writes 12 bits, `LD F` at most 0x54B, `ADD I` a sum modulo 4096. -/
theorem index_lt_of_exec {i : Instr} {s t : State} (h : exec i s = .next t) (hi : s.i.toNat < 0x1000) : t.i.toNat < 0x1000 := by
  by_cases hwrites : Part.index ∈ mayWrite i
  · cases i <;> simp [mayWrite] at hwrites
    case ldI nnn => cases h; exact (addrWord_toNat nnn).trans_lt nnn.isLt
    case ldF x => cases h; exact (fontAddr_toNat _).trans_lt (by have := (s.getV x).isLt; omega)
    case addI x => cases h; exact (indexSum_toNat _ _).trans_lt (Nat.mod_lt _ (by decide))
  · have hsame : t.i = s.i := instructionsWriteOnlyTheirParts i s t h .index hwrites
    rwa [hsame]

/-- A fetch in range bounds `PC` before the instruction; a jump reaches at most 0xFFF + 0xFF, and `RET` an address on the stack. -/
theorem pc_le_of_completes {i : Instr} {s t : State} (hf : faultMet i s = none) (h : exec i s = .next t)
    (hpc : s.pc.toNat < 0xFFF) (hstack : ∀ j : Fin 16, s.stack[j].toNat ≤ 0x1000) : t.pc.toNat ≤ 0x10FE := by
  have hadd2 : (s.pc + 2).toNat ≤ 0x10FE := by bv_omega
  have hadd4 : (s.pc + 4).toNat ≤ 0x10FE := by bv_omega
  obtain hnext | ⟨n, rfl | rfl | rfl⟩ | rfl | ⟨hskip, -⟩ := pc_of_completes hf h
  · rwa [hnext]
  · cases h
    have := n.isLt
    exact (addrWord_toNat n).trans_le (by omega)
  · cases h
    have := n.isLt
    have := (s.getV 0).isLt
    exact (v0Target_toNat n _).trans_le (by omega)
  · cases (exec_callAddr_of_lt n (faultMet_callAddr_eq_none.mp hf)).symm.trans h
    have := n.isLt
    exact (addrWord_toNat n).trans_le (by omega)
  · have hsp := faultMet_ret_eq_none.mp hf
    cases (exec_ret_of_ne hsp).symm.trans h
    exact (hstack ⟨s.sp.val - 1, by omega⟩).trans (by decide)
  · rwa [hskip]

theorem stack_le_of_completes {i : Instr} {s t : State} (hf : faultMet i s = none) (h : exec i s = .next t)
    (hpc : s.pc.toNat < 0xFFF) (hstack : ∀ j : Fin 16, s.stack[j].toNat ≤ 0x1000) (j : Fin 16) :
    t.stack[j].toNat ≤ 0x1000 := by
  by_cases hwrites : Part.stack ∈ mayWrite i
  · cases i <;> simp [mayWrite] at hwrites
    case callAddr nnn =>
      obtain ⟨u, hu, -, -, hslots, -⟩ := callPushesReturnAddress nnn s (faultMet_callAddr_eq_none.mp hf)
      cases hu.symm.trans h
      rw [hslots j]
      split
      · bv_omega
      · exact hstack j
  · have hsame : t.stack = s.stack := instructionsWriteOnlyTheirParts i s t h .stack hwrites
    rw [hsame]
    exact hstack j

/-- An instruction whose fetch was in range keeps the invariant. -/
theorem exec_keeps_inv {i : Instr} {s t : State} (h : exec i s = .next t) (hpc : s.pc.toNat < 0xFFF) (hinv : s.Inv) : t.Inv := by
  obtain ⟨k, -, rfl⟩ | ⟨hf, -⟩ := exec_cases h
  · exact hinv.congr rfl rfl rfl rfl
  · obtain ⟨hm, hi, -, hstack⟩ := hinv
    exact ⟨mem_wf_of_completes hf h hm, index_lt_of_exec h hi, pc_le_of_completes hf h hpc hstack,
      stack_le_of_completes hf h hpc hstack⟩

theorem afterStepTwo_keeps_inv {s u : State} (h : s.AfterStepTwo u) (hinv : s.Inv) : u.Inv := by
  have hevents : s.afterEvents.Inv := hinv.congr (by simp) (by simp) (by simp) (by simp)
  obtain ⟨-, -, rfl⟩ | ⟨i, ⟨-, -, w, hfetch, -⟩, hexec, -⟩ := h
  · exact hevents
  · exact exec_keeps_inv hexec (by simpa using pc_lt_of_fetchWord hfetch) hevents

/-- Settles O12: a halted step and a fault change nothing the invariant speaks of, nor do the ticks; the rest is the instruction
(`exec_keeps_inv`), whose fetch was in range. -/
theorem stepKeepsInvariant : Obligations.StepKeepsInvariant := by
  intro s t hinv hstep
  cases hrun : s.halted with
  | true =>
    cases (step_halted hrun).symm.trans hstep
    exact hinv.congr rfl rfl rfl rfl
  | false =>
    obtain ⟨-, k, rfl⟩ | ⟨u, hu, rfl⟩ := step_cases hrun hstep
    · exact hinv.congr (s.afterEvents_mem) (s.afterEvents_i) (s.afterEvents_pc) (s.afterEvents_stack)
    · exact (afterStepTwo_keeps_inv hu hinv).congr rfl rfl rfl rfl

end Sys2Proof.Machine
end

section
/-! SUPPORT. `CLS`, and `DRW` pixel by pixel: the cells of a sprite are those it covers (spec/46_draw_cls.md R175 to R178). -/

namespace Sys2Proof.Machine

/-- Settles O58: every cell of the cleared buffer is false (`FrameBuffer.cell_clear`). -/
theorem clearScreen : Obligations.ClearScreen := by
  intro s
  exact ⟨_, rfl, fun _ => FrameBuffer.cell_clear _, rfl, rfl,
    ((sameBut_setFB _ _).append (sameBut_emit _ _)).after_advancePC.mono (by simp)⟩

/-! ### Pixels and cells -/

theorem pixelAt_eq_cell (s : State) (px : Fin 64) (py : Fin 32) : pixelAt s px py = s.fb.cell (px, py) := by
  have hcell : ((⟨(py.val * 64 + px.val) % 64, by omega⟩, ⟨(py.val * 64 + px.val) / 64, by omega⟩) : Cell) = (px, py) :=
    Prod.ext (Fin.ext (by simp)) (Fin.ext (by simp; omega))
  exact congrArg s.fb.cell hcell

/-- The cells that a `DRW` executed in the state toggles. -/
def State.sprite (x y : Reg) (n : Fin 16) (s : State) : List Cell :=
  drwCells (s.getV x) (s.getV y) (s.mem.readBlock s.dataAddr n.val)

theorem nodup_sprite (x y : Reg) (n : Fin 16) (s : State) : (s.sprite x y n).Nodup :=
  nodup_spriteCells _ _ _ (by rw [Memory.length_readBlock]; omega)

theorem spriteCovers_iff_mem (x y : Reg) (n : Fin 16) (s : State) (px : Fin 64) (py : Fin 32) :
    SpriteCovers x y n s px py ↔ (px, py) ∈ s.sprite x y n := by
  rw [State.sprite, drwCells, mem_spriteCells, Memory.length_readBlock]
  refine exists_congr fun r => exists_congr fun c => and_congr_right fun hr => and_congr_right fun _ => ?_
  rw [Memory.getD_readBlock _ _ _ _ hr]
  refine and_congr_right fun _ => ?_
  simp only [wrapCell, Prod.mk.injEq, Fin.ext_iff]
  omega

/-! ### A sprite drawn -/

theorem pixelAt_drawn {cells : List Cell} (hcells : cells.Nodup) (s : State) (px : Fin 64) (py : Fin 32) :
    pixelAt (s.drawn cells) px py = (pixelAt s px py ^^ decide ((px, py) ∈ cells)) := by
  rw [pixelAt_eq_cell, pixelAt_eq_cell]
  exact (drawCells_spec cells hcells s.fb false).1 (px, py)

theorem getV_VF_drawn {cells : List Cell} (hcells : cells.Nodup) (s : State) :
    (s.drawn cells).getV VF = b2i (cells.any fun c => s.fb.cell c) := by
  have hhit := (drawCells_spec cells hcells s.fb false).2
  rw [Bool.false_or] at hhit
  simp [State.drawn, hhit]

theorem sprite_hits_iff (x y : Reg) (n : Fin 16) (s : State) :
    ((s.sprite x y n).any fun c => s.fb.cell c) = true ↔
      ∃ px py, SpriteCovers x y n s px py ∧ pixelAt s px py = true := by
  simp only [List.any_eq_true, Prod.exists, spriteCovers_iff_mem, pixelAt_eq_cell]

/-- Settles O56: the drawn cells are those the sprite covers (`spriteCovers_iff_mem`), each toggled once (`pixelAt_drawn`). -/
theorem drawTogglesSpritePixels : Obligations.DrawTogglesSpritePixels := by
  intro x y n s hfit
  have hfit : n.val = 0 ∨ s.dataAddr + n.val ≤ 4096 := by rw [State.dataAddr]; omega
  have hcells := nodup_sprite x y n s
  have hVF : (s.advancePC.drawn (s.sprite x y n)).getV VF = b2i ((s.sprite x y n).any fun c => s.fb.cell c) :=
    getV_VF_drawn hcells s.advancePC
  have hpixel (px : Fin 64) (py : Fin 32) : pixelAt (s.advancePC.drawn (s.sprite x y n)) px py =
      (pixelAt s px py ^^ decide ((px, py) ∈ s.sprite x y n)) := pixelAt_drawn hcells s.advancePC px py
  have hframe := (sameBut_drawn (s.sprite x y n) s.advancePC).after_advancePC
  refine ⟨_, exec_drw_of_fits x y hfit, fun px py => ⟨fun h => ?_, fun h => ?_⟩, fun h => ?_, fun h => ?_, fun r hr => ?_,
    rfl, rfl, hframe.mono (by simp)⟩
  · rw [spriteCovers_iff_mem] at h
    exact (hpixel px py).trans (by simp [h])
  · rw [spriteCovers_iff_mem] at h
    exact (hpixel px py).trans (by simp [h])
  · rw [← sprite_hits_iff] at h
    exact hVF.trans (by rw [h]; rfl)
  · rw [← sprite_hits_iff, Bool.not_eq_true] at h
    exact hVF.trans (by rw [h]; rfl)
  · have hr : r ≠ VF := List.ne_of_not_mem_cons hr
    simp [State.drawn, hr]

/-! ### Drawing twice -/

/-- What a sprite covers depends on its two coordinates, `I` and the bytes of memory alone. -/
theorem spriteCovers_congr {x y : Reg} {n : Fin 16} {s t : State} (hx : t.getV x = s.getV x) (hy : t.getV y = s.getV y)
    (hi : t.i = s.i) (hmem : ∀ a, t.mem.byteAt a = s.mem.byteAt a) (px : Fin 64) (py : Fin 32) :
    SpriteCovers x y n t px py ↔ SpriteCovers x y n s px py := by
  simp only [SpriteCovers, hx, hy, hi, hmem]

theorem exists_getLsbD_of_ne_zero {b : Byte} (h : b ≠ 0) : ∃ c, c < 8 ∧ b.getLsbD (7 - c) = true := by
  by_contra hnone
  refine h (BitVec.eq_of_getLsbD_eq fun k hk => ?_)
  have hbit : ¬ b.getLsbD (7 - (7 - k)) = true := fun hset => hnone ⟨7 - k, by omega, hset⟩
  rw [show 7 - (7 - k) = k by omega, Bool.not_eq_true] at hbit
  simpa using hbit

/-- A sprite covers some pixel exactly if one of its bytes has a set bit. -/
theorem exists_spriteCovers_iff (x y : Reg) (n : Fin 16) (s : State) :
    (∃ px py, SpriteCovers x y n s px py) ↔ ∃ r, r < n.val ∧ s.mem.byteAt (s.i.toNat + r) ≠ 0 := by
  constructor
  · rintro ⟨px, py, r, c, hr, -, hbit, -⟩
    refine ⟨r, hr, fun hzero => ?_⟩
    rw [hzero] at hbit
    simp at hbit
  · rintro ⟨r, hr, hne⟩
    obtain ⟨c, hc, hbit⟩ := exists_getLsbD_of_ne_zero hne
    exact ⟨⟨_, Nat.mod_lt _ (by decide)⟩, ⟨_, Nat.mod_lt _ (by decide)⟩, r, c, hr, hc, hbit, rfl, rfl⟩

/-- Settles O57: O56 twice. The second draw covers the same pixels (`spriteCovers_congr`), so each is inverted twice; on a clear
screen it finds set exactly the covered ones. -/
theorem drawTwiceRestoresPixels : Obligations.DrawTwiceRestoresPixels := by
  intro x y n s hx hy hfit
  obtain ⟨t, ht, htpixels, -, htmiss, htregs, -, -, htframe⟩ := drawTogglesSpritePixels x y n s hfit
  have hi : t.i = s.i := htframe .index (by simp)
  obtain ⟨u, hu, hupixels, huhit, humiss, -⟩ := drawTogglesSpritePixels x y n t (by rwa [hi])
  have hcovers (px : Fin 64) (py : Fin 32) : SpriteCovers x y n t px py ↔ SpriteCovers x y n s px py :=
    spriteCovers_congr (htregs x (by simpa using hx)) (htregs y (by simpa using hy)) hi (htframe .memory (by simp)) px py
  refine ⟨t, u, ht, hu, fun px py => ?_, fun hclear => ⟨htmiss ?_, ?_⟩⟩
  · by_cases hcover : SpriteCovers x y n s px py
    · rw [(hupixels px py).1 ((hcovers px py).mpr hcover), (htpixels px py).1 hcover, Bool.not_not]
    · rw [(hupixels px py).2 (mt (hcovers px py).mp hcover), (htpixels px py).2 hcover]
  · rintro ⟨px, py, -, hset⟩
    rw [hclear px py] at hset
    cases hset
  · rw [← exists_spriteCovers_iff x y n s]
    constructor
    · intro hVF
      by_contra hnone
      have hzero : u.getV VF = 0 := humiss fun ⟨px, py, hcover, _⟩ => hnone ⟨px, py, (hcovers px py).mp hcover⟩
      rw [hzero] at hVF
      cases hVF
    · rintro ⟨px, py, hcover⟩
      refine huhit ⟨px, py, (hcovers px py).mpr hcover, ?_⟩
      rw [(htpixels px py).1 hcover, hclear px py]
      rfl

end Sys2Proof.Machine
end
